-- ==== Sys2Proof/Word.lean ====
section
/-! DEFINITION. The word and byte types of the DHE (00_scope.md R10, R14: every value is unsigned). -/

namespace Sys2Proof

/-- A word: a 32-bit unsigned value (00_scope.md R14; `WORD_BITS` = 32, R8). -/
abbrev Word := BitVec 32

/-- A byte of the message buffer. -/
abbrev Byte := BitVec 8

end Sys2Proof
end

