-- ==== Sys2Proof/Config.lean ====
section
/-! DEFINITION. What one DHE fixes: the parameters of 00_scope.md R8 and the constants of 10_state.md. -/

namespace Sys2Proof

/-- `WORDS_MISALIGNED_POLICY` (00_scope.md R8; 42_double_hash.md R194). -/
inductive WordsPolicy where
  | fault
  | truncate
deriving DecidableEq, Repr

/-- `HOST_BUS_ENDIAN` (20_memory.md R78): it changes no value the block defines. -/
inductive BusEndian where
  | little
  | big
deriving DecidableEq, Repr

/-- The parameters of one DHE (00_scope.md R8). They are arguments of the model: State carries them and no
step changes them (log 1). -/
structure Params where
  /-- `MSG_CAP_BYTES`, constrained by 00_scope.md R9. -/
  msgCap : Nat
  /-- `WORDS_MISALIGNED_POLICY`. -/
  wordsPolicy : WordsPolicy
  /-- `DHE_BASE`: the system address of offset 0 of the window. -/
  base : Nat
  /-- `HOST_BUS_ENDIAN`. -/
  busEndian : BusEndian
deriving DecidableEq, Repr

/-- The constant that ID reads as: ASCII "DHE1" (10_state.md R35). -/
def idValue : Word := 0x44484531

/-- The size of the register window in bytes (20_memory.md R70). -/
def windowBytes : Nat := 4096

end Sys2Proof
end

