-- ==== Sys2Proof/Syntax.lean ====
section
/-! DEFINITION. The eight commands of the DHE: one constructor per row of spec/opcode_table.json
(30_encoding.md R102). -/

namespace Sys2Proof

/-- The number of a digest register, `d0` to `d3` (10_state.md R30; 30_encoding.md R101). -/
abbrev DReg := Fin 4

/-- A command of the DHE. IR and MSG are implicit operands, so no field names them (30_encoding.md R101). -/
inductive Instr where
  /-- `MSG.CLEAR` (41_message_input.md R163). -/
  | msgClear
  /-- `MSG.APPD rs1` (41_message_input.md R165). -/
  | msgAppd (rs1 : DReg)
  /-- `DH.BYTES rd` (42_double_hash.md R193). -/
  | dhBytes (rd : DReg)
  /-- `DH.WORDS rd` (42_double_hash.md R194). -/
  | dhWords (rd : DReg)
  /-- `DH.PARENT rd, rs1, rs2` (42_double_hash.md R195). -/
  | dhParent (rd rs1 rs2 : DReg)
  /-- `CV.TOINT rs1` (40_converter.md R131). -/
  | cvToint (rs1 : DReg)
  /-- `CV.FROMINT rd` (40_converter.md R132). -/
  | cvFromint (rd : DReg)
  /-- `CV.CMPEQ rs1, rs2` (40_converter.md R135). -/
  | cvCmpeq (rs1 rs2 : DReg)
deriving DecidableEq, Repr

end Sys2Proof
end

