-- ==== Sys2Proof/WellFormed.lean ====
section
/-! DEFINITION. What is well-formed: a command word's fields (30_encoding.md R103, R104) and a machine's
parameters (00_scope.md R9). A term of `Instr` is well-formed by its type: its register numbers are below 4
and it has no field the opcode does not use. -/

namespace Sys2Proof

/-- The fields of format C (30_encoding.md R100). -/
structure CommandFields where
  opc : BitVec 8
  rd : BitVec 2
  rs1 : BitVec 2
  rs2 : BitVec 2
  rsv : BitVec 18
deriving DecidableEq, Repr

/-- The eight assigned opcodes (30_encoding.md R102). -/
def assignedOpcodes : List (BitVec 8) := [0x01, 0x02, 0x10, 0x11, 0x12, 0x20, 0x21, 0x22]

/-- The opcodes that use RD, RS1 and RS2 (the "used fields" column of 30_encoding.md R102). -/
def usesRd : List (BitVec 8) := [0x10, 0x11, 0x12, 0x21]
def usesRs1 : List (BitVec 8) := [0x02, 0x12, 0x20, 0x22]
def usesRs2 : List (BitVec 8) := [0x12, 0x22]

/-- R104, condition 1 does not hold: the reserved bits are 0. -/
def CommandFields.reservedZero (f : CommandFields) : Bool := f.rsv == 0

/-- R104, condition 2 does not hold: the opcode is one of the eight. -/
def CommandFields.opcodeAssigned (f : CommandFields) : Bool := assignedOpcodes.contains f.opc

/-- R104, condition 3 does not hold: every field the opcode does not use is 0 (R103). -/
def CommandFields.unusedZero (f : CommandFields) : Bool :=
  (usesRd.contains f.opc || f.rd == 0) && (usesRs1.contains f.opc || f.rs1 == 0) &&
    (usesRs2.contains f.opc || f.rs2 == 0)

/-- A legal command word's fields: none of R104's three conditions holds. -/
def CommandFields.wf (f : CommandFields) : Bool :=
  f.reservedZero && f.opcodeAssigned && f.unusedZero

/-- R9: `MSG_CAP_BYTES` is a multiple of 4. -/
def Params.capAligned (p : Params) : Bool := p.msgCap % 4 == 0

/-- R9: 64 <= `MSG_CAP_BYTES`. -/
def Params.capHoldsPair (p : Params) : Bool := decide (64 ≤ p.msgCap)

/-- R9: `MSG_CAP_BYTES` <= 0xFFFFFFFC. -/
def Params.capFits (p : Params) : Bool := decide (p.msgCap ≤ 0xFFFFFFFC)

/-- The constraints of 00_scope.md R9. A machine whose parameters break them is refused by `step`. -/
def Params.wf (p : Params) : Bool := p.capAligned && p.capHoldsPair && p.capFits

end Sys2Proof
end

