-- ==== Sys2Proof/Decode.lean ====
section
/-! DEFINITION. Decoding a command word, total on every 32-bit word and rejecting by name (30_encoding.md
R100 to R106); the encoder; the opcode table's match and mask pairs. -/

namespace Sys2Proof

/-- Why a command word is illegal: the three conditions of 30_encoding.md R104. Each is reported by the block
as Error(ILLEGAL_CMD). -/
inductive DecodeError where
  /-- `RSV != 0`. -/
  | reservedBits
  /-- `OPC` is not one of the eight opcodes of R102. -/
  | unassignedOpcode
  /-- A field the opcode does not use is not 0 (R103). -/
  | unusedField
deriving DecidableEq, Repr

/-- The fields of a word: `OPC = w[7:0]`, `RD = w[9:8]`, `RS1 = w[11:10]`, `RS2 = w[13:12]`,
`RSV = w[31:14]` (30_encoding.md R101). -/
def fieldsOf (w : Word) : CommandFields where
  opc := w.extractLsb' 0 8
  rd := w.extractLsb' 8 2
  rs1 := w.extractLsb' 10 2
  rs2 := w.extractLsb' 12 2
  rsv := w.extractLsb' 14 18

/-- A register field names its digest register directly (30_encoding.md R101). -/
def regOf (f : BitVec 2) : DReg := f.toFin

/-- The command if the unused fields are 0 (30_encoding.md R103). -/
def whenUnusedZero (unused : List (BitVec 2)) (i : Instr) : Except DecodeError Instr :=
  if unused.all (· == 0) then .ok i else .error .unusedField

/-- The opcode map (30_encoding.md R102), with R103's zero fields and R104's three ways to be illegal. -/
def decodeFields (f : CommandFields) : Except DecodeError Instr :=
  if f.rsv ≠ 0 then .error .reservedBits
  else if f.opc = 0x01 then whenUnusedZero [f.rd, f.rs1, f.rs2] .msgClear
  else if f.opc = 0x02 then whenUnusedZero [f.rd, f.rs2] (.msgAppd (regOf f.rs1))
  else if f.opc = 0x10 then whenUnusedZero [f.rs1, f.rs2] (.dhBytes (regOf f.rd))
  else if f.opc = 0x11 then whenUnusedZero [f.rs1, f.rs2] (.dhWords (regOf f.rd))
  else if f.opc = 0x12 then .ok (.dhParent (regOf f.rd) (regOf f.rs1) (regOf f.rs2))
  else if f.opc = 0x20 then whenUnusedZero [f.rd, f.rs2] (.cvToint (regOf f.rs1))
  else if f.opc = 0x21 then whenUnusedZero [f.rs1, f.rs2] (.cvFromint (regOf f.rd))
  else if f.opc = 0x22 then whenUnusedZero [f.rd] (.cvCmpeq (regOf f.rs1) (regOf f.rs2))
  else .error .unassignedOpcode

/-- The decoder: one 32-bit word is one command, with no length to determine (30_encoding.md R106). -/
def decode (w : Word) : Except DecodeError Instr := decodeFields (fieldsOf w)

/-- `enc(OPC, RD, RS1, RS2) = OPC | RD << 8 | RS1 << 10 | RS2 << 12` (30_encoding.md R101). -/
def enc (opc : BitVec 8) (rd rs1 rs2 : DReg) : Word :=
  opc.setWidth 32 ||| (BitVec.ofNat 32 rd.val <<< 8) ||| (BitVec.ofNat 32 rs1.val <<< 10) |||
    (BitVec.ofNat 32 rs2.val <<< 12)

/-- The encoder, one line per row of 30_encoding.md R102 (each instruction's **Encoding**). -/
def encode : Instr → Word
  | .msgClear => enc 0x01 0 0 0
  | .msgAppd rs1 => enc 0x02 0 rs1 0
  | .dhBytes rd => enc 0x10 rd 0 0
  | .dhWords rd => enc 0x11 rd 0 0
  | .dhParent rd rs1 rs2 => enc 0x12 rd rs1 rs2
  | .cvToint rs1 => enc 0x20 0 rs1 0
  | .cvFromint rd => enc 0x21 rd 0 0
  | .cvCmpeq rs1 rs2 => enc 0x22 0 rs1 rs2

/-- The opcode table's match and mask pairs, in the order of spec/opcode_table.json. -/
def opcodeTable : List (Word × Word) :=
  [(0x00000001, 0xFFFFFFFF), (0x00000002, 0xFFFFF3FF), (0x00000010, 0xFFFFFCFF), (0x00000011, 0xFFFFFCFF),
   (0x00000012, 0xFFFFC0FF), (0x00000020, 0xFFFFF3FF), (0x00000021, 0xFFFFFCFF), (0x00000022, 0xFFFFC3FF)]

/-- A word matches a row when its masked bits are the row's match (30_encoding.md R104, last sentence). -/
def matchesRow (w : Word) (row : Word × Word) : Bool := (w &&& row.2) == row.1

/-- The row of `opcodeTable` that a command belongs to. -/
def rowOf : Instr → Word × Word
  | .msgClear => (0x00000001, 0xFFFFFFFF)
  | .msgAppd _ => (0x00000002, 0xFFFFF3FF)
  | .dhBytes _ => (0x00000010, 0xFFFFFCFF)
  | .dhWords _ => (0x00000011, 0xFFFFFCFF)
  | .dhParent _ _ _ => (0x00000012, 0xFFFFC0FF)
  | .cvToint _ => (0x00000020, 0xFFFFF3FF)
  | .cvFromint _ => (0x00000021, 0xFFFFFCFF)
  | .cvCmpeq _ _ => (0x00000022, 0xFFFFC3FF)

/-- The instruction the decoder reads from the opcode table's numbering of bits: a command is one 32-bit word
whose bit 0 is the least significant, so the number is the word. Bits above `nbits` are 0. -/
def decodeTableWord (nbits w : Nat) : Option Instr :=
  let n := w % 2 ^ nbits
  if n < 2 ^ 32 then (decode (BitVec.ofNat 32 n)).toOption else none

end Sys2Proof
end

