-- ==== Sys2Proof/Machine/Lanes.lean ====
section
/-! DEFINITION. Eight lanes and four registers: the shapes of a digest (10_state.md R30), of the integer
register (R32), of their written bits (R44) and of the digest register file (R30). -/

namespace Sys2Proof.Machine

/-- Eight values in index order: a digest's words, the limbs of IR, or one bit for each of them. -/
structure Eight (α : Type) where
  e0 : α
  e1 : α
  e2 : α
  e3 : α
  e4 : α
  e5 : α
  e6 : α
  e7 : α
deriving DecidableEq, Repr

/-- Four values in index order: one for each digest register. -/
structure Four (α : Type) where
  r0 : α
  r1 : α
  r2 : α
  r3 : α
deriving DecidableEq, Repr

/-- Lane `j`. -/
def Eight.get {α : Type} (v : Eight α) (j : Fin 8) : α :=
  match j with
  | 0 => v.e0
  | 1 => v.e1
  | 2 => v.e2
  | 3 => v.e3
  | 4 => v.e4
  | 5 => v.e5
  | 6 => v.e6
  | 7 => v.e7

/-- `v` with lane `j` replaced. -/
def Eight.set {α : Type} (v : Eight α) (j : Fin 8) (x : α) : Eight α :=
  match j with
  | 0 => { v with e0 := x }
  | 1 => { v with e1 := x }
  | 2 => { v with e2 := x }
  | 3 => { v with e3 := x }
  | 4 => { v with e4 := x }
  | 5 => { v with e5 := x }
  | 6 => { v with e6 := x }
  | 7 => { v with e7 := x }

/-- The eight values that `f` gives. -/
def Eight.ofFn {α : Type} (f : Fin 8 → α) : Eight α :=
  ⟨f 0, f 1, f 2, f 3, f 4, f 5, f 6, f 7⟩

/-- One value in every lane. -/
def Eight.const {α : Type} (x : α) : Eight α := ⟨x, x, x, x, x, x, x, x⟩

/-- The sequence `w[0..8)`. -/
def Eight.toList {α : Type} (v : Eight α) : List α :=
  [v.e0, v.e1, v.e2, v.e3, v.e4, v.e5, v.e6, v.e7]

/-- Every lane is true. -/
def Eight.all (v : Eight Bool) : Bool :=
  v.e0 && v.e1 && v.e2 && v.e3 && v.e4 && v.e5 && v.e6 && v.e7

/-- Register `i`. -/
def Four.get {α : Type} (v : Four α) (i : DReg) : α :=
  match i with
  | 0 => v.r0
  | 1 => v.r1
  | 2 => v.r2
  | 3 => v.r3

/-- `v` with register `i` replaced. -/
def Four.set {α : Type} (v : Four α) (i : DReg) (x : α) : Four α :=
  match i with
  | 0 => { v with r0 := x }
  | 1 => { v with r1 := x }
  | 2 => { v with r2 := x }
  | 3 => { v with r3 := x }

/-- One value in every register. -/
def Four.const {α : Type} (x : α) : Four α := ⟨x, x, x, x⟩

/-- A digest: eight 32-bit words `w[0]` to `w[7]` (10_state.md R30). -/
abbrev Digest := Eight Word

/-- The integer register's limbs `L[0]` (least significant) to `L[7]` (10_state.md R32). -/
abbrev Limbs := Eight Word

end Sys2Proof.Machine
end

