-- ==== Sys2Proof/Machine/Straps.lean ====
section
/-! DEFINITION. The parameters of the machine that `State.reset` names (00_scope.md R8, log 1). -/

namespace Sys2Proof.Machine

/-- The parameters in `State.reset`. `wordsPolicy` is the default R8 gives. `msgCap` (the value
95_test_vectors.md uses), `base` and `busEndian` are OPEN in the spec: DESIGN CHOICE, log 1. -/
def defaultParams : Params where
  msgCap := 1024
  wordsPolicy := .fault
  base := 0
  busEndian := .little

end Sys2Proof.Machine
end

