-- ==== Sys2Proof/Machine/State.lean ====
section
/-! DEFINITION. The state of the DHE (10_state.md), the reasons a step can stop, and the state after a
power-on reset (10_state.md R45; 70_reset_and_hazards.md R280). -/

namespace Sys2Proof.Machine

/-- The error codes recorded in STATUS.ERRCODE (60_exceptions.md R251). Code 0 (NONE) stands for no error. -/
inductive ErrorCode where
  | illegalCmd
  | msgMisaligned
  | msgOverflow
  | busy
  | badAccess
deriving DecidableEq, Repr

/-- The two agents (00_scope.md R7). -/
inductive Agent where
  | host
  | engine
deriving DecidableEq, Repr

/-- What the host does next: one access at a system address, `bytes` wide (20_memory.md R70, R72), or the
polling loop `wait` (30_encoding.md R108). -/
inductive HostOp where
  | read (addr bytes : Nat)
  | write (addr bytes : Nat) (value : Word)
  | wait
deriving DecidableEq, Repr

/-- The model-level faults (60_exceptions.md R258): the hardware does not report them, and they stop the model in a
faulted state that is never final and gives no value (00_scope.md R12; 60_exceptions.md R250). The run has no later
state (log 15). -/
inductive Fault where
  /-- Raised by a host access that is not 32 bits wide, not aligned, or outside the window (20_memory.md R72).
  Safe: the block is untouched and no value is given. -/
  | badBusAccess
  /-- Raised by a host read of a DR word or IR limb whose written bit is 0 (10_state.md R44; 60_exceptions.md R258;
  93_implementation_defined.md I1). Safe: the hardware's value is unspecified and none is given. -/
  | unwrittenRead
  /-- Raised by a completion step that reads such a word as an operand (10_state.md R44; 60_exceptions.md R258;
  93_implementation_defined.md I2). Safe: the hardware's result is unspecified and none is given. -/
  | unwrittenOperand
  /-- Raised by the reference functions only, never by a step (40_converter.md R143).
  Safe: no value is given. -/
  | refOverflow
deriving DecidableEq, Repr

/-- The refusals. -/
inductive Refusal where
  /-- Raised by an arm of `exec` that has no meaning yet. Safe: the run stops. No arm raises it now. -/
  | notModelled (mnemonic : String)
  /-- Raised by `step` on a machine whose parameters break 00_scope.md R9 ("ill-formed and is refused").
  Safe: the run stops. -/
  | illFormedParams
deriving DecidableEq, Repr

/-- The state of one DHE and of the host's side of its port. -/
structure State where
  /-- The parameters (00_scope.md R8); no step changes them. -/
  params : Params
  /-- `DR[0..3].w[0..7]` (10_state.md R30). -/
  dr : Four Digest
  /-- `written(DR[i].w[j])` (10_state.md R44). -/
  drWritten : Four (Eight Bool)
  /-- `IR.L[0..7]` (10_state.md R32). -/
  ir : Limbs
  /-- `written(IR.L[k])` (10_state.md R44). -/
  irWritten : Eight Bool
  /-- `MSG[0..MSG_LEN)`: the content of the message buffer; its length is MSG_LEN (10_state.md R34, R39). -/
  msg : List Byte
  /-- `T`, the hidden first-pass result (10_state.md R42). -/
  t : Digest
  /-- `STATUS.EQ` (10_state.md R37). -/
  eq : Bool
  /-- `STATUS.ERR` (10_state.md R37). -/
  err : Bool
  /-- `STATUS.ERRCODE` (10_state.md R37). -/
  errcode : BitVec 4
  /-- `INFLIGHT` (10_state.md R43). `STATUS.BUSY` is computed from it. -/
  inflight : Option Instr
  /-- The host's accesses that have not reached the port yet, in order (20_memory.md R79; the model's own
  field, log 6). -/
  port : List HostOp
  /-- Which agent moves next (70_reset_and_hazards.md R287; the model's own field, log 6). -/
  turns : List Agent
  /-- The values the host's reads returned, the newest first (the model's own field, log 7). -/
  returned : List Word
deriving DecidableEq, Repr

/-- The state after a power-on reset of a machine with parameters `p` (10_state.md R45). The contents of DR,
IR and T are unspecified there, so they are arguments. -/
def State.powerOn (p : Params) (dr : Four Digest) (ir : Limbs) (t : Digest) : State where
  params := p
  dr := dr
  drWritten := Four.const (Eight.const false)
  ir := ir
  irWritten := Eight.const false
  msg := []
  t := t
  eq := false
  err := false
  errcode := 0
  inflight := none
  port := []
  turns := []
  returned := []

/-- The machine right after reset. The data registers hold 0 (DESIGN CHOICE, log 2, 3 and 4; the spec leaves
them unspecified), every other field is as 10_state.md R45 says. -/
def State.reset : State :=
  State.powerOn defaultParams (Four.const (Eight.const 0)) (Eight.const 0) (Eight.const 0)

end Sys2Proof.Machine
end

