-- ==== Sys2Proof/Machine/Flags.lean ====
section
/-! DEFINITION. STATUS and its fields (10_state.md R37, R47), the error codes (60_exceptions.md R251) and the
equality that CV.CMPEQ writes (40_converter.md R134). -/

namespace Sys2Proof.Machine

/-- The code of an error in STATUS.ERRCODE (60_exceptions.md R251). -/
def ErrorCode.code : ErrorCode → BitVec 4
  | .illegalCmd => 1
  | .msgMisaligned => 2
  | .msgOverflow => 3
  | .busy => 4
  | .badAccess => 5

/-- `STATUS.BUSY`: 1 exactly when `INFLIGHT != none` (10_state.md R37, R43). -/
def State.busy (s : State) : Bool := s.inflight.isSome

/-- `MSG_LEN`, the fill count (10_state.md R34). -/
abbrev State.msgLen (s : State) : Nat := s.msg.length

/-- The word STATUS reads as: BUSY in bit 0, EQ in bit 1, ERR in bit 2, 0 in bit 3, ERRCODE in bits 7:4 and
0 in bits 31:8 (10_state.md R37). -/
def State.statusWord (s : State) : Word :=
  0#24 ++ s.errcode ++ 0#1 ++ BitVec.ofBool s.err ++ BitVec.ofBool s.eq ++ BitVec.ofBool s.busy

/-- `eq(a, b)`: all eight words are pairwise equal, in order (40_converter.md R134). -/
def digestEq (a b : Digest) : Bool :=
  a.get 0 == b.get 0 && a.get 1 == b.get 1 && a.get 2 == b.get 2 && a.get 3 == b.get 3 &&
    a.get 4 == b.get 4 && a.get 5 == b.get 5 && a.get 6 == b.get 6 && a.get 7 == b.get 7

end Sys2Proof.Machine
end

