-- ==== Sys2Proof/Machine/Operands.lean ====
section
/-! DEFINITION. The operands of a command: a digest register as a source (with the written-bit rule of
10_state.md R44), a digest register as a destination (R31), IR as either (R33), and MSG. -/

namespace Sys2Proof.Machine

/-- Every word of `DR[r]` has been written (10_state.md R44). -/
def State.digestWritten (s : State) (r : DReg) : Bool := (s.drWritten.get r).all

/-- Every limb of IR has been written (10_state.md R44). -/
def State.limbsWritten (s : State) : Bool := s.irWritten.all

/-- `d <- DR[r]`, with `fault UnwrittenOperand` if any word is unwritten (10_state.md R44; 60_exceptions.md
R258). -/
def State.digestOperand (s : State) (r : DReg) : Except Fault Digest :=
  match s.digestWritten r with
  | true => .ok (s.dr.get r)
  | false => .error .unwrittenOperand

/-- `L <- IR.L[0..7]`, with `fault UnwrittenOperand` if any limb is unwritten (10_state.md R44; 60_exceptions.md
R258). -/
def State.irOperand (s : State) : Except Fault Limbs :=
  match s.limbsWritten with
  | true => .ok s.ir
  | false => .error .unwrittenOperand

/-- Write all eight words of `DR[r]` and mark them written (10_state.md R31, R44). -/
def State.writeDigest (s : State) (r : DReg) (d : Digest) : State :=
  { s with dr := s.dr.set r d, drWritten := s.drWritten.set r (Eight.const true) }

/-- Write all eight limbs of IR and mark them written (10_state.md R33, R44). -/
def State.writeIr (s : State) (n : Limbs) : State :=
  { s with ir := n, irWritten := Eight.const true }

/-- `DR[i].w[j] <- v ; written(DR[i].w[j]) <- 1` (20_memory.md R75). -/
def State.writeDigestWord (s : State) (i : DReg) (j : Fin 8) (v : Word) : State :=
  { s with
    dr := s.dr.set i ((s.dr.get i).set j v)
    drWritten := s.drWritten.set i ((s.drWritten.get i).set j true) }

/-- `IR.L[k] <- v ; written(IR.L[k]) <- 1` (20_memory.md R75). -/
def State.writeLimb (s : State) (k : Fin 8) (v : Word) : State :=
  { s with ir := s.ir.set k v, irWritten := s.irWritten.set k true }

/-- Append bytes at the end of the message buffer (10_state.md R34). -/
def State.appendMsg (s : State) (bytes : List Byte) : State := { s with msg := s.msg ++ bytes }

/-- `MSG_LEN <- 0` (41_message_input.md R163). -/
def State.clearMsg (s : State) : State := { s with msg := [] }

/-- The first pass writes T (42_double_hash.md R190). -/
def State.writeT (s : State) (t : Digest) : State := { s with t := t }

/-- `STATUS.EQ <- b` (40_converter.md R135). -/
def State.writeEq (s : State) (b : Bool) : State := { s with eq := b }

end Sys2Proof.Machine
end

