-- ==== Sys2Proof/Machine/Ops.lean ====
section
/-! DEFINITION. The operations the whole machine shares: raising an error (60_exceptions.md R252) and clearing
it (R257), the soft reset (70_reset_and_hazards.md R282), latching and retiring a command (R285, R286), and
the host's side of the port. -/

namespace Sys2Proof.Machine

/-- The three outcomes of a step of this machine. -/
abbrev Result := Host.Outcome State Fault Refusal

/-- `raise Error(c)`: the first error is kept, later ones are not counted (60_exceptions.md R252). This is all
that "taking" an error is on this hardware: there is no trap, vector or saved state (R250, R260). -/
def State.raiseError (s : State) (c : ErrorCode) : State :=
  if s.err then s else { s with err := true, errcode := c.code }

/-- `CTRL.ERR_CLR`: STATUS.ERR and STATUS.ERRCODE are set to 0 (60_exceptions.md R257). It is the only
"return" of the error model. -/
def State.clearErrors (s : State) : State := { s with err := false, errcode := 0 }

/-- `CTRL.SOFT_RESET` (70_reset_and_hazards.md R282; 10_state.md R45). DR, IR and their written bits are
unchanged. T is unspecified afterwards and read by no rule; the model leaves it (log 4). -/
def State.softReset (s : State) : State :=
  { s with inflight := none, eq := false, err := false, errcode := 0, msg := [] }

/-- Issue, step 5 of 60_exceptions.md R254: `INFLIGHT <- ...; STATUS.BUSY <- 1`. -/
def State.latch (s : State) (i : Instr) : State := { s with inflight := some i }

/-- The end of a completion step: `INFLIGHT <- none; STATUS.BUSY <- 0` (70_reset_and_hazards.md R286). -/
def State.retire (s : State) : State := { s with inflight := none }

/-- A read returns a value to the host (20_memory.md R73); nothing else changes. -/
def State.deliver (s : State) (v : Word) : State := { s with returned := v :: s.returned }

/-- The host's access at the head of `port` has reached the block. -/
def State.popPort (s : State) : State := { s with port := s.port.tail }

/-- The turn at the head of `turns` is used up. -/
def State.popTurn (s : State) : State := { s with turns := s.turns.tail }

/-- `fault Name`: go on with an operand, or stop with the fault that reading it raised (00_scope.md R12). -/
def withOperand {α : Type} (x : Except Fault α) (k : α → Result) : Result :=
  match x with
  | .ok a => k a
  | .error f => .fault f

end Sys2Proof.Machine
end

