-- ==== Sys2Proof/Machine/Bytes.lean ====
section
/-! DEFINITION. Bytes and words are related big-endian inside the DHE (20_memory.md R77): `BE`
(41_message_input.md R164) and `WORDS` (42_double_hash.md R192). -/

namespace Sys2Proof.Machine

/-- The four bytes of a word, most significant first: `w[31:24]`, `w[23:16]`, `w[15:8]`, `w[7:0]`
(41_message_input.md R161, R164). -/
def wordBytes (w : Word) : List Byte :=
  [w.extractLsb' 24 8, w.extractLsb' 16 8, w.extractLsb' 8 8, w.extractLsb' 0 8]

/-- `BE(ws)`: the byte sequence of a word sequence (41_message_input.md R164). -/
def beBytes (ws : List Word) : List Byte := ws.flatMap wordBytes

/-- `{b0, b1, b2, b3}`: the word whose most significant byte is `b0` (42_double_hash.md R192). -/
def wordOfBytes (b0 b1 b2 b3 : Byte) : Word := b0 ++ b1 ++ b2 ++ b3

/-- `WORDS(bs)`: the word view of a byte sequence (42_double_hash.md R192). R192 defines it on lengths that
are a multiple of 4, and every use in this model is on such a length; fewer than four bytes at the end give no
word. -/
def beWords : List Byte → List Word
  | b0 :: b1 :: b2 :: b3 :: rest => wordOfBytes b0 b1 b2 b3 :: beWords rest
  | _ => []

/-- `BV(d)`: the 32-byte view of a digest (41_message_input.md R164). -/
def byteView (d : Digest) : List Byte := beBytes d.toList

end Sys2Proof.Machine
end

