-- ==== Sys2Proof/Machine/Sha256.lean ====
section
/-! DEFINITION. The single-pass primitive H: SHA-256 with its padding (45_sha256.md R220 to R229, which the
spec supplies from general knowledge; log 12). -/

namespace Sys2Proof.Machine

/-- `ROTR(x, n)` for 0 < n < 32 (45_sha256.md R223). -/
def rotr (x : Word) (n : Nat) : Word := (x >>> n) ||| (x <<< (32 - n))

/-- `Ch`, `Maj`, `Sigma0`, `Sigma1`, `sigma0` and `sigma1` (45_sha256.md R223). -/
def shaCh (x y z : Word) : Word := (x &&& y) ^^^ (~~~x &&& z)
def shaMaj (x y z : Word) : Word := (x &&& y) ^^^ (x &&& z) ^^^ (y &&& z)
def bigSigma0 (x : Word) : Word := rotr x 2 ^^^ rotr x 13 ^^^ rotr x 22
def bigSigma1 (x : Word) : Word := rotr x 6 ^^^ rotr x 11 ^^^ rotr x 25
def smallSigma0 (x : Word) : Word := rotr x 7 ^^^ rotr x 18 ^^^ (x >>> 3)
def smallSigma1 (x : Word) : Word := rotr x 17 ^^^ rotr x 19 ^^^ (x >>> 10)

/-- The round constants `K[0..64)` (45_sha256.md R224). -/
def roundConstants : List Word :=
  [0x428a2f98, 0x71374491, 0xb5c0fbcf, 0xe9b5dba5, 0x3956c25b, 0x59f111f1, 0x923f82a4, 0xab1c5ed5] ++
  [0xd807aa98, 0x12835b01, 0x243185be, 0x550c7dc3, 0x72be5d74, 0x80deb1fe, 0x9bdc06a7, 0xc19bf174] ++
  [0xe49b69c1, 0xefbe4786, 0x0fc19dc6, 0x240ca1cc, 0x2de92c6f, 0x4a7484aa, 0x5cb0a9dc, 0x76f988da] ++
  [0x983e5152, 0xa831c66d, 0xb00327c8, 0xbf597fc7, 0xc6e00bf3, 0xd5a79147, 0x06ca6351, 0x14292967] ++
  [0x27b70a85, 0x2e1b2138, 0x4d2c6dfc, 0x53380d13, 0x650a7354, 0x766a0abb, 0x81c2c92e, 0x92722c85] ++
  [0xa2bfe8a1, 0xa81a664b, 0xc24b8b70, 0xc76c51a3, 0xd192e819, 0xd6990624, 0xf40e3585, 0x106aa070] ++
  [0x19a4c116, 0x1e376c08, 0x2748774c, 0x34b0bcb5, 0x391c0cb3, 0x4ed8aa4a, 0x5b9cca4f, 0x682e6ff3] ++
  [0x748f82ee, 0x78a5636f, 0x84c87814, 0x8cc70208, 0x90befffa, 0xa4506ceb, 0xbef9a3f7, 0xc67178f2]

/-- The initial hash value `IV` (45_sha256.md R225). -/
def initialHash : Digest :=
  ⟨0x6a09e667, 0xbb67ae85, 0x3c6ef372, 0xa54ff53a, 0x510e527f, 0x9b05688c, 0x1f83d9ab, 0x5be0cd19⟩

/-- `z`, the number of zero bytes in the padding of a message of `n` bytes: the smallest `z` with
`(n + 1 + z) mod 64 = 56` (45_sha256.md R221). -/
def padZeros (n : Nat) : Nat := (119 - n % 64) % 64

/-- `BE64(l)`: `l` as 8 bytes, most significant first (45_sha256.md R221). -/
def be64 (l : Nat) : List Byte :=
  let b : BitVec 64 := BitVec.ofNat 64 l
  [b.extractLsb' 56 8, b.extractLsb' 48 8, b.extractLsb' 40 8, b.extractLsb' 32 8,
   b.extractLsb' 24 8, b.extractLsb' 16 8, b.extractLsb' 8 8, b.extractLsb' 0 8]

/-- `P = m ++ [0x80] ++ [0x00] * z ++ BE64(8 * len(m))` (45_sha256.md R221). -/
def shaPad (m : List Byte) : List Byte :=
  m ++ [0x80] ++ List.replicate (padZeros m.length) 0 ++ be64 (8 * m.length)

/-- `W[j]` from the 16 words before it, the newest first:
`sigma1(W[j-2]) + W[j-7] + sigma0(W[j-15]) + W[j-16]` (45_sha256.md R226). -/
def nextScheduleWord (newestFirst : List Word) : Word :=
  smallSigma1 (newestFirst.getD 1 0) + newestFirst.getD 6 0 + smallSigma0 (newestFirst.getD 14 0) +
    newestFirst.getD 15 0

/-- `n` more words of the schedule, the newest first. -/
def extendSchedule : Nat → List Word → List Word
  | 0, ws => ws
  | n + 1, ws => extendSchedule n (nextScheduleWord ws :: ws)

/-- `W[0..64)` of a block of 16 words (45_sha256.md R226). -/
def messageSchedule (block : List Word) : List Word := (extendSchedule 48 block.reverse).reverse

/-- One round on the working values `a` (lane 0) to `h` (lane 7) (45_sha256.md R227). -/
def shaRound (v : Digest) (k w : Word) : Digest :=
  let t1 := v.e7 + bigSigma1 v.e4 + shaCh v.e4 v.e5 v.e6 + k + w
  let t2 := bigSigma0 v.e0 + shaMaj v.e0 v.e1 v.e2
  ⟨t1 + t2, v.e0, v.e1, v.e2, v.e3 + t1, v.e4, v.e5, v.e6⟩

/-- The rounds over the constants and the schedule, in order (45_sha256.md R227). -/
def shaRounds : List Word → List Word → Digest → Digest
  | k :: ks, w :: ws, v => shaRounds ks ws (shaRound v k w)
  | _, _, v => v

/-- Lane-wise addition modulo 2^32 (45_sha256.md R227, last line; R229). -/
def addLanes (a b : Digest) : Digest :=
  ⟨a.e0 + b.e0, a.e1 + b.e1, a.e2 + b.e2, a.e3 + b.e3, a.e4 + b.e4, a.e5 + b.e5, a.e6 + b.e6, a.e7 + b.e7⟩

/-- The compression of one block into the state `S` (45_sha256.md R227). -/
def shaCompress (s : Digest) (block : List Word) : Digest :=
  addLanes s (shaRounds roundConstants (messageSchedule block) s)

/-- The compression of `n` blocks of 16 words, in order (45_sha256.md R222, R227). -/
def shaBlocks : Nat → List Word → Digest → Digest
  | 0, _, s => s
  | n + 1, ws, s => shaBlocks n (ws.drop 16) (shaCompress s (ws.take 16))

/-- `H(m)`: the eight state words after the last block (45_sha256.md R228; 42_double_hash.md R191).
Irreducible, so that no proof about the machine unfolds it by accident; `rw [sha256]` unfolds it. -/
@[irreducible] def sha256 (m : List Byte) : Digest :=
  shaBlocks ((shaPad m).length / 64) (beWords (shaPad m)) initialHash

end Sys2Proof.Machine
end

