-- ==== Sys2Proof/Machine/Hash.lean ====
section
/-! DEFINITION. The double-hash family (42_double_hash.md): one datapath of two passes over any primitive H
(R190, R191, R231), and DH.BYTES, DH.WORDS and DH.PARENT with H = SHA-256 (R220). -/

namespace Sys2Proof.Machine

/-- The single-pass primitive on bytes, `H : ByteSeq -> Vec 8 UInt32` (45_sha256.md R231). -/
abbrev Primitive := List Byte → Digest

/-- `H_words(ws) = H(BE(ws))` (42_double_hash.md R192). -/
def hashWords (H : Primitive) (ws : List Word) : Digest := H (beBytes ws)

/-- `double_hash_bytes` (42_double_hash.md R193). -/
def doubleHashBytes (H : Primitive) (m : List Byte) : Digest := hashWords H (H m).toList

/-- `double_hash_words` (42_double_hash.md R194). -/
def doubleHashWords (H : Primitive) (ws : List Word) : Digest := hashWords H (hashWords H ws).toList

/-- `double_hash_parent`: exactly `double_hash_words(left.words ++ right.words)` (42_double_hash.md R195). -/
def doubleHashParent (H : Primitive) (left right : Digest) : Digest :=
  doubleHashWords H (left.toList ++ right.toList)

/-- The datapath after the first pass gave `t` (42_double_hash.md R190): T holds it, the second pass takes
exactly its eight words, and DR[rd] is written whole. -/
def State.commitHash (s : State) (H : Primitive) (rd : DReg) (t : Digest) : State :=
  let s1 := s.writeT t
  (s1.writeDigest rd (hashWords H s1.t.toList)).retire

/-- The word view of the message: `WORDS(MSG[0..4n))` with `n = MSG_LEN div 4` (42_double_hash.md R194). -/
def State.messageWords (s : State) : List Word := beWords (s.msg.take (4 * (s.msgLen / 4)))

/-- The issue check of DH.WORDS (42_double_hash.md R194). -/
def issueCheckDhWords (s : State) : Option ErrorCode :=
  if s.msgLen % 4 ≠ 0 ∧ s.params.wordsPolicy = .fault then some .msgMisaligned else none

/-- DH.BYTES over any primitive: the first pass takes the raw bytes of MSG (42_double_hash.md R193). -/
def State.hashMessageBytes (s : State) (H : Primitive) (rd : DReg) : State :=
  s.commitHash H rd (H s.msg)

/-- DH.WORDS over any primitive: the first pass takes the word view of MSG (42_double_hash.md R194). -/
def State.hashMessageWords (s : State) (H : Primitive) (rd : DReg) : State :=
  s.commitHash H rd (hashWords H s.messageWords)

/-- DH.PARENT over any primitive: both sources are read before DR[rd] is written (42_double_hash.md R195). -/
def State.hashParent (s : State) (H : Primitive) (rd rs1 rs2 : DReg) : Result :=
  withOperand (s.digestOperand rs1) fun left =>
    withOperand (s.digestOperand rs2) fun right =>
      .next (s.commitHash H rd (hashWords H (left.toList ++ right.toList)))

/-- Completion of `DH.BYTES rd` (42_double_hash.md R193). -/
def execDhBytes (rd : DReg) (s : State) : Result := .next (s.hashMessageBytes sha256 rd)

/-- Completion of `DH.WORDS rd` (42_double_hash.md R194). -/
def execDhWords (rd : DReg) (s : State) : Result := .next (s.hashMessageWords sha256 rd)

/-- Completion of `DH.PARENT rd, rs1, rs2` (42_double_hash.md R195). -/
def execDhParent (rd rs1 rs2 : DReg) (s : State) : Result := s.hashParent sha256 rd rs1 rs2

end Sys2Proof.Machine
end

