-- ==== Sys2Proof/Machine/Message.lean ====
section
/-! DEFINITION. The message family (41_message_input.md): the two push ports, MSG.CLEAR and MSG.APPD. -/

namespace Sys2Proof.Machine

/-- `n` more bytes would make MSG_LEN exceed `MSG_CAP_BYTES` (41_message_input.md R162). -/
def State.wouldOverflow (s : State) (n : Nat) : Bool := decide (s.params.msgCap < s.msgLen + n)

/-- An append by a push port: all of the bytes or Error(MSG_OVERFLOW) (41_message_input.md R162). -/
def State.pushBytes (s : State) (bytes : List Byte) : State :=
  if s.wouldOverflow bytes.length then s.raiseError .msgOverflow else s.appendMsg bytes

/-- A MSG_PUSH8 write: append `v[7:0]`; `v[31:8]` is ignored (41_message_input.md R160). -/
def State.push8 (s : State) (v : Word) : State := s.pushBytes [v.extractLsb' 0 8]

/-- A MSG_PUSH32 write: append `v[31:24]` first and `v[7:0]` last (41_message_input.md R161). -/
def State.push32 (s : State) (v : Word) : State := s.pushBytes (wordBytes v)

/-- The issue check of MSG.APPD (41_message_input.md R165). -/
def issueCheckMsgAppd (s : State) : Option ErrorCode :=
  if s.wouldOverflow 32 then some .msgOverflow else none

/-- Completion of `MSG.CLEAR` (41_message_input.md R163). -/
def execMsgClear (s : State) : Result := .next s.clearMsg.retire

/-- Completion of `MSG.APPD rs1` (41_message_input.md R165). The overflow check was made at issue and stays
true, because nothing can be appended while BUSY = 1. -/
def execMsgAppd (rs1 : DReg) (s : State) : Result :=
  withOperand (s.digestOperand rs1) fun d => .next (s.appendMsg (byteView d)).retire

end Sys2Proof.Machine
end

