-- ==== Sys2Proof/Machine/Issue.lean ====
section
/-! DEFINITION. Issuing a command: what a write of a command word to CMD does (60_exceptions.md R254;
70_reset_and_hazards.md R285). -/

namespace Sys2Proof.Machine

/-- The opcode-specific issue check, step 4 of 60_exceptions.md R254. At most one applies to any opcode. -/
def issueCheck (s : State) : Instr → Option ErrorCode
  | .msgClear => none
  | .msgAppd _ => issueCheckMsgAppd s
  | .dhBytes _ => none
  | .dhWords _ => issueCheckDhWords s
  | .dhParent _ _ _ => none
  | .cvToint _ => none
  | .cvFromint _ => none
  | .cvCmpeq _ _ => none

/-- `issue(w)`: the first check that applies is the only error reported, and the command is then not issued
(60_exceptions.md R254). Steps 2 and 3 are the decoder's rejections. -/
def State.issue (s : State) (w : Word) : State :=
  if s.busy then s.raiseError .busy
  else
    match decode w with
    | .error _ => s.raiseError .illegalCmd
    | .ok i =>
      match issueCheck s i with
      | some c => s.raiseError c
      | none => s.latch i

end Sys2Proof.Machine
end

