-- ==== Sys2Proof/Machine/Bus.lean ====
section
/-! DEFINITION. The register window and the host's accesses to it (20_memory.md R70 to R79). -/

namespace Sys2Proof.Machine

/-- What an offset of the window names (20_memory.md R71). -/
inductive Target where
  | id
  | ctrl
  | status
  | cmd
  | msgLen
  | msgCap
  | msgPush8
  | msgPush32
  | dr (i : DReg) (j : Fin 8)
  | ir (k : Fin 8)
  | unmapped
deriving DecidableEq, Repr

/-- The register at an offset (20_memory.md R71). It is used on aligned offsets of the window only (R72). -/
def targetOf (off : Nat) : Target :=
  if off = 0x000 then .id
  else if off = 0x004 then .ctrl
  else if off = 0x008 then .status
  else if off = 0x00C then .cmd
  else if off = 0x010 then .msgLen
  else if off = 0x014 then .msgCap
  else if off = 0x018 then .msgPush8
  else if off = 0x01C then .msgPush32
  else if 0x100 ≤ off ∧ off < 0x180 then .dr (Fin.ofNat 4 ((off - 0x100) / 32)) (Fin.ofNat 8 ((off - 0x100) / 4))
  else if 0x180 ≤ off ∧ off < 0x1A0 then .ir (Fin.ofNat 8 ((off - 0x180) / 4))
  else .unmapped

/-- The offset of a register (20_memory.md R71); an unmapped offset names none. -/
def offsetOf : Target → Option Nat
  | .id => some 0x000
  | .ctrl => some 0x004
  | .status => some 0x008
  | .cmd => some 0x00C
  | .msgLen => some 0x010
  | .msgCap => some 0x014
  | .msgPush8 => some 0x018
  | .msgPush32 => some 0x01C
  | .dr i j => some (0x100 + 32 * i.val + 4 * j.val)
  | .ir k => some (0x180 + 4 * k.val)
  | .unmapped => none

/-- The offset of an access to the block: 32 bits wide, inside the window and aligned (20_memory.md R70, R72).
Any other access is not an access to the block. -/
def busOffset (p : Params) (addr bytes : Nat) : Option Nat :=
  if bytes = 4 ∧ p.base ≤ addr ∧ addr < p.base + windowBytes ∧ (addr - p.base) % 4 = 0 then
    some (addr - p.base)
  else none

/-- A data word as a host read returns it: `fault UnwrittenRead` if its written bit is 0 (10_state.md R44;
60_exceptions.md R258). -/
def readData (written : Bool) (v : Word) : Except Fault Word :=
  match written with
  | true => .ok v
  | false => .error .unwrittenRead

/-- `MemRead(off, 4)`: the register's current value; a write-only or unmapped offset reads as 0
(20_memory.md R73; 10_state.md R35 to R41). -/
def State.readTarget (s : State) : Target → Except Fault Word
  | .id => .ok idValue
  | .ctrl => .ok 0
  | .status => .ok s.statusWord
  | .cmd => .ok 0
  | .msgLen => .ok (BitVec.ofNat 32 s.msgLen)
  | .msgCap => .ok (BitVec.ofNat 32 s.params.msgCap)
  | .msgPush8 => .ok 0
  | .msgPush32 => .ok 0
  | .dr i j => readData ((s.drWritten.get i).get j) ((s.dr.get i).get j)
  | .ir k => readData (s.irWritten.get k) (s.ir.get k)
  | .unmapped => .ok 0

/-- The CTRL action: bit 0 performs a soft reset (alone, even with bit 1 set), bit 1 clears the error fields,
the other bits are ignored (10_state.md R36). -/
def State.ctrlAction (s : State) (v : Word) : State :=
  if v.getLsbD 0 then s.softReset else if v.getLsbD 1 then s.clearErrors else s

/-- The read-only and unmapped targets (20_memory.md R74). -/
def Target.rejectsWrite : Target → Bool
  | .id => true
  | .ctrl => false
  | .status => true
  | .cmd => false
  | .msgLen => true
  | .msgCap => true
  | .msgPush8 => false
  | .msgPush32 => false
  | .dr _ _ => false
  | .ir _ => false
  | .unmapped => true

/-- A write that reached its register with BUSY = 0: the last five branches of 20_memory.md R75. -/
def State.idleWrite (s : State) (v : Word) : Target → State
  | .id => s
  | .ctrl => s
  | .status => s
  | .cmd => s.issue v
  | .msgLen => s
  | .msgCap => s
  | .msgPush8 => s.push8 v
  | .msgPush32 => s.push32 v
  | .dr i j => s.writeDigestWord i j v
  | .ir k => s.writeLimb k v
  | .unmapped => s

/-- `MemWrite(off, 4, v)`: the first branch of 20_memory.md R75 that applies ends the write. -/
def State.writeTarget (s : State) (t : Target) (v : Word) : State :=
  if t.rejectsWrite then s.raiseError .badAccess
  else if t = .ctrl then s.ctrlAction v
  else if s.busy then s.raiseError .busy
  else s.idleWrite v t

/-- A host read (20_memory.md R72, R73). -/
def hostRead (addr bytes : Nat) (s : State) : Result :=
  match busOffset s.params addr bytes with
  | none => .fault .badBusAccess
  | some off => withOperand (s.readTarget (targetOf off)) fun v => .next (s.deliver v)

/-- A host write (20_memory.md R72, R75). -/
def hostWrite (addr bytes : Nat) (v : Word) (s : State) : Result :=
  match busOffset s.params addr bytes with
  | none => .fault .badBusAccess
  | some off => .next (s.writeTarget (targetOf off) v)

/-- One turn of the polling loop `wait`: read STATUS; the loop is left once BUSY reads 0
(30_encoding.md R108). -/
def hostPoll (s : State) : Result :=
  .next (if s.busy then s.deliver s.statusWord else (s.deliver s.statusWord).popPort)

/-- The host's turn: its next access reaches the block (20_memory.md R79). With none left the host does
nothing. -/
def hostTurn (s : State) : Result :=
  match s.port with
  | [] => .next s
  | .read addr bytes :: _ => hostRead addr bytes s.popPort
  | .write addr bytes v :: _ => hostWrite addr bytes v s.popPort
  | .wait :: _ => hostPoll s

/-- The agent that moves next (70_reset_and_hazards.md R287): `turns` says so, and once it is used up a command
in flight completes first, which is the weak fairness R287 assumes (log 6). -/
def State.mover (s : State) : Agent :=
  match s.turns with
  | a :: _ => a
  | [] => if s.busy then .engine else .host

end Sys2Proof.Machine
end

