-- ==== Sys2Proof/Machine/Converter.lean ====
section
/-! DEFINITION. The converter family (40_converter.md R130 to R136): CV.TOINT, CV.FROMINT and CV.CMPEQ, and
the numbers that IR and a digest stand for. -/

namespace Sys2Proof.Machine

/-- The word-order transpose `k -> 7-k`, which is its own inverse (40_converter.md R130, R136). -/
def transpose (v : Eight Word) : Eight Word := Eight.ofFn fun k => v.get (7 - k)

/-- `low = {L[3], L[2], L[1], L[0]}` (10_state.md R32). -/
def limbsLow (l : Limbs) : Nat :=
  (l.get 0).toNat + ((l.get 1).toNat <<< 32) + ((l.get 2).toNat <<< 64) + ((l.get 3).toNat <<< 96)

/-- `high = {L[7], L[6], L[5], L[4]}` (10_state.md R32). -/
def limbsHigh (l : Limbs) : Nat :=
  (l.get 4).toNat + ((l.get 5).toNat <<< 32) + ((l.get 6).toNat <<< 64) + ((l.get 7).toNat <<< 96)

/-- `N = sum over k in 0..7 of IR.L[k] << (32*k)` (10_state.md R32). -/
def limbsNat (l : Limbs) : Nat := ((List.finRange 8).map fun k => (l.get k).toNat <<< (32 * k.val)).sum

/-- `integer.low = words[7] | words[6]<<32 | words[5]<<64 | words[4]<<96` (40_converter.md R130). -/
def digestLow (d : Digest) : Nat :=
  (d.get 7).toNat ||| ((d.get 6).toNat <<< 32) ||| ((d.get 5).toNat <<< 64) ||| ((d.get 4).toNat <<< 96)

/-- `integer.high = words[3] | words[2]<<32 | words[1]<<64 | words[0]<<96` (40_converter.md R130). -/
def digestHigh (d : Digest) : Nat :=
  (d.get 3).toNat ||| ((d.get 2).toNat <<< 32) ||| ((d.get 1).toNat <<< 64) ||| ((d.get 0).toNat <<< 96)

/-- `N = (high << 128) | low` (40_converter.md R130). -/
def digestNat (d : Digest) : Nat := (digestHigh d <<< 128) ||| digestLow d

/-- Completion of `CV.TOINT rs1` (40_converter.md R131). -/
def execCvToint (rs1 : DReg) (s : State) : Result :=
  withOperand (s.digestOperand rs1) fun d => .next (s.writeIr (transpose d)).retire

/-- Completion of `CV.FROMINT rd` (40_converter.md R132). -/
def execCvFromint (rd : DReg) (s : State) : Result :=
  withOperand s.irOperand fun l => .next (s.writeDigest rd (transpose l)).retire

/-- Completion of `CV.CMPEQ rs1, rs2` (40_converter.md R135). -/
def execCvCmpeq (rs1 rs2 : DReg) (s : State) : Result :=
  withOperand (s.digestOperand rs1) fun a =>
    withOperand (s.digestOperand rs2) fun b => .next (s.writeEq (digestEq a b)).retire

end Sys2Proof.Machine
end

