-- ==== Sys2Proof/Machine/Dispatch.lean ====
section
/-! DEFINITION. The engine's completion of each command (70_reset_and_hazards.md R286): one arm per
constructor of Instr, one meaning per arm. -/

namespace Sys2Proof.Machine

def exec (i : Instr) (s : State) : Host.Outcome State Fault Refusal :=
  match i with
  | .msgClear => Sys2Proof.Machine.execMsgClear s
  | .msgAppd rs1 => Sys2Proof.Machine.execMsgAppd rs1 s
  | .dhBytes rd => Sys2Proof.Machine.execDhBytes rd s
  | .dhWords rd => Sys2Proof.Machine.execDhWords rd s
  | .dhParent rd rs1 rs2 => Sys2Proof.Machine.execDhParent rd rs1 rs2 s
  | .cvToint rs1 => Sys2Proof.Machine.execCvToint rs1 s
  | .cvFromint rd => Sys2Proof.Machine.execCvFromint rd s
  | .cvCmpeq rs1 rs2 => Sys2Proof.Machine.execCvCmpeq rs1 rs2 s

end Sys2Proof.Machine
end

