-- ==== Sys2Proof/Machine/Step.lean ====
section
/-! DEFINITION. One step of the machine: one agent moves (00_scope.md R7; 70_reset_and_hazards.md R287). -/

namespace Sys2Proof.Machine

/-- The engine's turn: its completion step, enabled exactly when `INFLIGHT != none`
(70_reset_and_hazards.md R286). With nothing in flight the engine does nothing. -/
def engineTurn (s : State) : Host.Outcome State Fault Refusal :=
  match s.inflight with
  | some i => exec i s
  | none => .next s

/-- One step: the agent that `mover` names moves. A machine whose parameters break 00_scope.md R9 is
refused. -/
def step (s : State) : Host.Outcome State Fault Refusal :=
  if s.params.wf then
    match s.mover with
    | .engine => engineTurn s.popTurn
    | .host => hostTurn s.popTurn
  else .refused .illFormedParams

/-- `s` with the command of the word `w` in INFLIGHT, which is where the engine takes its next command from
(70_reset_and_hazards.md R286), and with the next turn given to the engine. It stands for a CMD write that
passed the issue checks (log 10). -/
def State.withFetchWord (s : State) (nbits w : Nat) : State :=
  { s with inflight := decodeTableWord nbits w, turns := .engine :: s.turns }

end Sys2Proof.Machine
end

