-- ==== Sys2Proof/Machine/Assembler.lean ====
section
/-! DEFINITION. The assembler syntax of a command (30_encoding.md R107): its mnemonic, case-insensitive,
followed by its used register fields in the order RD, RS1, RS2, each `d0` to `d3`, separated by commas. How
much blank space may stand around them R107 does not say (DESIGN CHOICE, log 14). -/

namespace Sys2Proof.Machine

/-- The mnemonics (30_encoding.md R102). -/
def mnemonic : Instr → List Char
  | .msgClear => ['M', 'S', 'G', '.', 'C', 'L', 'E', 'A', 'R']
  | .msgAppd _ => ['M', 'S', 'G', '.', 'A', 'P', 'P', 'D']
  | .dhBytes _ => ['D', 'H', '.', 'B', 'Y', 'T', 'E', 'S']
  | .dhWords _ => ['D', 'H', '.', 'W', 'O', 'R', 'D', 'S']
  | .dhParent _ _ _ => ['D', 'H', '.', 'P', 'A', 'R', 'E', 'N', 'T']
  | .cvToint _ => ['C', 'V', '.', 'T', 'O', 'I', 'N', 'T']
  | .cvFromint _ => ['C', 'V', '.', 'F', 'R', 'O', 'M', 'I', 'N', 'T']
  | .cvCmpeq _ _ => ['C', 'V', '.', 'C', 'M', 'P', 'E', 'Q']

/-- The used register fields of a command, in the order RD, RS1, RS2 (30_encoding.md R107). -/
def operandList : Instr → List DReg
  | .msgClear => []
  | .msgAppd rs1 => [rs1]
  | .dhBytes rd => [rd]
  | .dhWords rd => [rd]
  | .dhParent rd rs1 rs2 => [rd, rs1, rs2]
  | .cvToint rs1 => [rs1]
  | .cvFromint rd => [rd]
  | .cvCmpeq rs1 rs2 => [rs1, rs2]

/-- The digit of a register name. -/
def digitOf (r : DReg) : Char :=
  match r with
  | 0 => '0'
  | 1 => '1'
  | 2 => '2'
  | 3 => '3'

/-- Register names separated by commas. -/
def printRegs : List DReg → List Char
  | [] => []
  | [r] => [' ', 'd', digitOf r]
  | r :: rest => ' ' :: 'd' :: digitOf r :: ',' :: printRegs rest

/-- A command in assembler syntax. -/
def printInstr (i : Instr) : List Char := mnemonic i ++ printRegs (operandList i)

/-- The capital form of a letter; another character stands for itself. -/
def capital (c : Char) : Char :=
  if 97 ≤ c.toNat ∧ c.toNat ≤ 122 then Char.ofNat (c.toNat - 32) else c

/-- The register that a character of a register name stands for. -/
def regOfDigit (c : Char) : Option DReg :=
  if c = '0' then some 0 else if c = '1' then some 1 else if c = '2' then some 2
  else if c = '3' then some 3 else none

/-- Register names separated by commas, blanks left out. -/
def parseRegs : List Char → Option (List DReg)
  | [] => some []
  | ['d', c] => (regOfDigit c).map fun r => [r]
  | 'd' :: c :: ',' :: rest =>
    match regOfDigit c, rest, parseRegs rest with
    | some r, _ :: _, some rs => some (r :: rs)
    | _, _, _ => none
  | _ => none

/-- The command with a mnemonic (in capitals) and operands: the forms of 30_encoding.md R107. -/
def instrOf (m : List Char) (ops : List DReg) : Option Instr :=
  match ops with
  | [] => if m = mnemonic .msgClear then some .msgClear else none
  | [a] =>
    if m = mnemonic (.msgAppd 0) then some (.msgAppd a)
    else if m = mnemonic (.dhBytes 0) then some (.dhBytes a)
    else if m = mnemonic (.dhWords 0) then some (.dhWords a)
    else if m = mnemonic (.cvToint 0) then some (.cvToint a)
    else if m = mnemonic (.cvFromint 0) then some (.cvFromint a)
    else none
  | [a, b] => if m = mnemonic (.cvCmpeq 0 0) then some (.cvCmpeq a b) else none
  | [a, b, c] => if m = mnemonic (.dhParent 0 0 0) then some (.dhParent a b c) else none
  | _ => none

/-- A line of assembler text: the mnemonic ends at the first blank, and blanks elsewhere are left out. -/
def parseInstr (text : List Char) : Option Instr :=
  let line := text.dropWhile (· = ' ')
  match parseRegs ((line.dropWhile (· ≠ ' ')).filter (· ≠ ' ')) with
  | some ops => instrOf ((line.takeWhile (· ≠ ' ')).map capital) ops
  | none => none

end Sys2Proof.Machine
end

