-- ==== Sys2Proof/Machine/HostProgram.lean ====
section
/-! DEFINITION. The host operations and pseudo-instructions of 30_encoding.md R108, as the lists of host
accesses they expand to. They exist only in host programs: the block sees the accesses. -/

namespace Sys2Proof.Machine

/-- The offset of a register by its name; `unmapped` names none, and no form below uses it. -/
def offsetOr (t : Target) : Nat := (offsetOf t).getD 0

/-- `wr NAME, v` (30_encoding.md R108). -/
def hWr (p : Params) (t : Target) (v : Word) : List HostOp := [.write (p.base + offsetOr t) 4 v]

/-- `rd NAME -> x` (30_encoding.md R108). -/
def hRd (p : Params) (t : Target) : List HostOp := [.read (p.base + offsetOr t) 4]

/-- `issue M ops` (30_encoding.md R108). -/
def hIssue (p : Params) (i : Instr) : List HostOp := hWr p .cmd (encode i)

/-- `wait` (30_encoding.md R108). -/
def hWait : List HostOp := [.wait]

/-- `do M ops` (30_encoding.md R108). -/
def hDo (p : Params) (i : Instr) : List HostOp := hIssue p i ++ hWait

/-- The eight lane numbers in order. -/
def laneNumbers : List (Fin 8) := [0, 1, 2, 3, 4, 5, 6, 7]

/-- `ld dN, [v0, ..., v7]` (30_encoding.md R108). -/
def hLd (p : Params) (n : DReg) (v : Digest) : List HostOp :=
  laneNumbers.flatMap fun j => hWr p (.dr n j) (v.get j)

/-- `st dN -> [x0..x7]` (30_encoding.md R108). -/
def hSt (p : Params) (n : DReg) : List HostOp := laneNumbers.flatMap fun j => hRd p (.dr n j)

/-- `ldi [l0, ..., l7]` (30_encoding.md R108). -/
def hLdi (p : Params) (l : Limbs) : List HostOp := laneNumbers.flatMap fun k => hWr p (.ir k) (l.get k)

/-- `sti -> [x0..x7]` (30_encoding.md R108). -/
def hSti (p : Params) : List HostOp := laneNumbers.flatMap fun k => hRd p (.ir k)

/-- `push8 b0, b1, ...` (30_encoding.md R108). -/
def hPush8 (p : Params) (bs : List Word) : List HostOp := bs.flatMap (hWr p .msgPush8)

/-- `push32 v0, v1, ...` (30_encoding.md R108). -/
def hPush32 (p : Params) (vs : List Word) : List HostOp := vs.flatMap (hWr p .msgPush32)

/-- `errclr` (30_encoding.md R108). -/
def hErrclr (p : Params) : List HostOp := hWr p .ctrl 0x2

/-- `sreset` (30_encoding.md R108). -/
def hSreset (p : Params) : List HostOp := hWr p .ctrl 0x1

end Sys2Proof.Machine
end

