-- ==== Sys2Proof/Machine/Reference.lean ====
section
/-! DEFINITION. The reference functions of the source (40_converter.md R140 to R145). They are not commands:
they define the converter's result in the source's own terms. `W` is the width of the value type T. -/

namespace Sys2Proof.Machine

/-- T's multiplication: a product that does not fit in `W` bits is `fault RefOverflow`
(40_converter.md R143). -/
def refMul (W a b : Nat) : Except Fault Nat :=
  if a * b < 2 ^ W then .ok (a * b) else .error .refOverflow

/-- The loop of `fast_pow` (40_converter.md R140), with the stop test before the squaring. `fuel` bounds the
number of turns; the exponent halves at each, so `fuel = e` is enough. -/
def fastPowLoop (W : Nat) : Nat → Nat → Nat → Nat → Except Fault Nat
  | 0, _, _, acc => .ok acc
  | fuel + 1, base, e, acc => do
    let acc ← if e % 2 = 1 then refMul W acc base else .ok acc
    if e / 2 = 0 then .ok acc
    else
      let base ← refMul W base base
      fastPowLoop W fuel base (e / 2) acc

/-- `fast_pow(base, exponent)`: exponent 0 gives 1 whatever the base (40_converter.md R140). -/
def fastPow (W base e : Nat) : Except Fault Nat :=
  if e = 0 then .ok 1 else fastPowLoop W e base e 1

/-- `shl(value, shift)` (40_converter.md R141). -/
def refShl (W value shift : Nat) : Except Fault Nat :=
  if W - 1 < shift then .ok 0
  else do
    let p ← fastPow W 2 shift
    refMul W value p

/-- `shr(value, shift)`, the floor (40_converter.md R142). -/
def refShr (W value shift : Nat) : Except Fault Nat :=
  if W - 1 < shift then .ok 0
  else do
    let p ← fastPow W 2 shift
    .ok (value / p)

/-- A half of the integer from four words, the least significant first:
`shl(w7,0) | shl(w6,32) | shl(w5,64) | shl(w4,96)` (40_converter.md R145). -/
def refHalf (a b c d : Word) : Except Fault Nat := do
  let x0 ← refShl 128 a.toNat 0
  let x1 ← refShl 128 b.toNat 32
  let x2 ← refShl 128 c.toNat 64
  let x3 ← refShl 128 d.toNat 96
  .ok (x0 ||| x1 ||| x2 ||| x3)

/-- The source's digest -> integer: the pair (high, low) (40_converter.md R145). -/
def refToInteger (d : Digest) : Except Fault (Nat × Nat) := do
  let low ← refHalf (d.get 7) (d.get 6) (d.get 5) (d.get 4)
  let high ← refHalf (d.get 3) (d.get 2) (d.get 1) (d.get 0)
  .ok (high, low)

/-- Limb `j` of a half: `shr(h, 32*j) & 0xffffffff` (40_converter.md R145). -/
def refLimb (h j : Nat) : Except Fault Word := do
  let x ← refShr 128 h (32 * j)
  .ok (BitVec.ofNat 32 (x &&& 0xffffffff))

/-- `shr(., 32)` applied `j` times (40_converter.md R145). -/
def refShrTimes : Nat → Nat → Except Fault Nat
  | 0, h => .ok h
  | j + 1, h => do
    let x ← refShr 128 h 32
    refShrTimes j x

/-- The source's integer -> digest: the high half gives words 0..3, most significant first, and the low half
words 4..7 (40_converter.md R145). -/
def refFromInteger (high low : Nat) : Except Fault Digest := do
  let w0 ← refLimb high 3
  let w1 ← refLimb high 2
  let w2 ← refLimb high 1
  let w3 ← refLimb high 0
  let w4 ← refLimb low 3
  let w5 ← refLimb low 2
  let w6 ← refLimb low 1
  let w7 ← refLimb low 0
  .ok ⟨w0, w1, w2, w3, w4, w5, w6, w7⟩

end Sys2Proof.Machine
end

