-- ==== Sys2Proof/Safety.lean ====
section
/-! DEFINITION. The words that claims about the machine use: what the next step is, which error a write
raises, the invariant of the machine, and the end of a run. -/

namespace Sys2Proof.Machine

/-- The next step is a host write of `v` that reaches the register `t` (20_memory.md R72, R75). -/
def State.hostWrites (s : State) (t : Target) (v : Word) : Prop :=
  s.mover = .host ∧ ∃ addr bytes rest off, s.port = .write addr bytes v :: rest ∧
    busOffset s.params addr bytes = some off ∧ targetOf off = t

/-- The next step is a soft reset: a CTRL write with bit 0 set (70_reset_and_hazards.md R282). -/
def State.softResets (s : State) : Prop := ∃ v, s.hostWrites .ctrl v ∧ v.getLsbD 0 = true

/-- The next step is the completion of the command `i` (70_reset_and_hazards.md R286). -/
def State.completes (s : State) (i : Instr) : Prop := s.mover = .engine ∧ s.inflight = some i

/-- The error a host write of `v` to the register `t` raises, by the priorities of 60_exceptions.md R254 and
R255; none if it raises none. -/
def writeError (s : State) (t : Target) (v : Word) : Option ErrorCode :=
  if t.rejectsWrite then some .badAccess
  else if t = .ctrl then none
  else if s.inflight ≠ none then some .busy
  else if t = .cmd then
    match decode v with
    | .error _ => some .illegalCmd
    | .ok (.dhWords _) =>
      if s.msg.length % 4 ≠ 0 ∧ s.params.wordsPolicy = .fault then some .msgMisaligned else none
    | .ok (.msgAppd _) => if s.params.msgCap < s.msg.length + 32 then some .msgOverflow else none
    | .ok _ => none
  else if t = .msgPush8 then
    if s.params.msgCap < s.msg.length + 1 then some .msgOverflow else none
  else if t = .msgPush32 then
    if s.params.msgCap < s.msg.length + 4 then some .msgOverflow else none
  else none

/-- What holds of every state a machine can be in: the parameters meet 00_scope.md R9; MSG_LEN is at most
`MSG_CAP_BYTES` (10_state.md R34); ERRCODE is 0 exactly when ERR = 0 and never 6 to 15 (10_state.md R37); the
issue check of a command in flight still holds (41_message_input.md R165, 42_double_hash.md R194). -/
structure State.Inv (s : State) : Prop where
  params_wf : s.params.wf = true
  msg_fits : s.msgLen ≤ s.params.msgCap
  code_of_err : s.errcode = 0 ↔ s.err = false
  code_known : s.errcode.toNat ≤ 5
  appd_fits : ∀ r, s.inflight = some (.msgAppd r) → s.msgLen + 32 ≤ s.params.msgCap
  words_aligned : ∀ r, s.inflight = some (.dhWords r) → s.params.wordsPolicy = .fault → s.msgLen % 4 = 0

/-- The block is quiescent: `INFLIGHT = none` (70_reset_and_hazards.md R291). -/
def State.quiescent (s : State) : Bool := !s.busy

/-- The next step is the host's and reads STATUS, by an access at its offset or by a turn of `wait`. -/
def State.readsStatus (s : State) : Bool :=
  decide (s.mover = .host) &&
    match s.port with
    | .read addr bytes :: _ => busOffset s.params addr bytes == offsetOf .status
    | .wait :: _ => true
    | _ => false

/-- The access writes. -/
def HostOp.isWrite : HostOp → Bool
  | .read _ _ => false
  | .write _ _ _ => true
  | .wait => false

/-- The end of a host program's run: if the next step is a STATUS read that returns BUSY = 0, and no write of the
program is left, the end state is the state after it (70_reset_and_hazards.md R291). A step that stops at a
model-level fault ends no run: a faulted state is never final (60_exceptions.md R258). Reads may still follow. -/
def State.runEnd (s : State) : Option State :=
  match step s with
  | .next t =>
    if s.readsStatus && s.quiescent && t.port.all (fun op => !op.isWrite) then some t else none
  | .fault _ => none
  | .refused _ => none

/-- Every word that a completion of the command reads as an operand has been written (10_state.md R44). -/
def State.operandsWritten (s : State) : Instr → Bool
  | .msgClear => true
  | .msgAppd rs1 => s.digestWritten rs1
  | .dhBytes _ => true
  | .dhWords _ => true
  | .dhParent _ rs1 rs2 => s.digestWritten rs1 && s.digestWritten rs2
  | .cvToint rs1 => s.digestWritten rs1
  | .cvFromint _ => s.limbsWritten
  | .cvCmpeq rs1 rs2 => s.digestWritten rs1 && s.digestWritten rs2

/-- The state after a completion of the command, whose operands have been written: what the completion rules of the
family files give (40_converter.md, 41_message_input.md, 42_double_hash.md). -/
def State.completed (s : State) : Instr → State
  | .msgClear => s.clearMsg.retire
  | .msgAppd rs1 => (s.appendMsg (byteView (s.dr.get rs1))).retire
  | .dhBytes rd => s.commitHash sha256 rd (sha256 s.msg)
  | .dhWords rd => s.commitHash sha256 rd (hashWords sha256 s.messageWords)
  | .dhParent rd rs1 rs2 =>
    s.commitHash sha256 rd (hashWords sha256 ((s.dr.get rs1).toList ++ (s.dr.get rs2).toList))
  | .cvToint rs1 => (s.writeIr (transpose (s.dr.get rs1))).retire
  | .cvFromint rd => (s.writeDigest rd (transpose s.ir)).retire
  | .cvCmpeq rs1 rs2 => (s.writeEq (digestEq (s.dr.get rs1) (s.dr.get rs2))).retire

/-- The next step is a completion that reads an unwritten word as an operand (10_state.md R44). -/
def State.usesUnwrittenOperand (s : State) : Prop := ∃ i, s.completes i ∧ s.operandsWritten i = false

/-- The written bit of what a read reaches (10_state.md R44); only the data words have one. -/
def State.targetWritten (s : State) : Target → Bool
  | .id => true
  | .ctrl => true
  | .status => true
  | .cmd => true
  | .msgLen => true
  | .msgCap => true
  | .msgPush8 => true
  | .msgPush32 => true
  | .dr i j => (s.drWritten.get i).get j
  | .ir k => s.irWritten.get k
  | .unmapped => true

/-- The next step is a host read of an unwritten word (10_state.md R44). -/
def State.readsUnwritten (s : State) : Prop :=
  s.mover = .host ∧ ∃ addr bytes rest off, s.port = .read addr bytes :: rest ∧
    busOffset s.params addr bytes = some off ∧ s.targetWritten (targetOf off) = false

/-- `s` with other written bits. The hardware keeps none (10_state.md R44). -/
def State.withWritten (s : State) (dw : Four (Eight Bool)) (iw : Eight Bool) : State :=
  { s with drWritten := dw, irWritten := iw }

/-- The registers a command in flight may change, as the host sees them: its destination and STATUS
(70_reset_and_hazards.md R289). -/
def writesTarget : Instr → Target → Bool
  | _, .status => true
  | .msgClear, .msgLen => true
  | .msgAppd _, .msgLen => true
  | .dhBytes rd, .dr i _ => decide (i = rd)
  | .dhWords rd, .dr i _ => decide (i = rd)
  | .dhParent rd _ _, .dr i _ => decide (i = rd)
  | .cvToint _, .ir _ => true
  | .cvFromint rd, .dr i _ => decide (i = rd)
  | _, _ => false

/-- `f` on the next state of an outcome; a fault or a refusal stays as it is. -/
def mapNext (f : State → State) : Result → Result
  | .next s => .next (f s)
  | .fault r => .fault r
  | .refused r => .refused r

/-- `k` steps, stopping at the first fault or refusal. -/
def run : Nat → State → Result
  | 0, s => .next s
  | k + 1, s =>
    match step s with
    | .next s' => run k s'
    | .fault r => .fault r
    | .refused r => .refused r

/-- The primes below 312, in order: the first 64 (45_sha256.md R224, R225 name the constants by them). -/
def firstPrimes : List Nat :=
  (List.range 312).filter fun n => decide (2 ≤ n) && (List.range n).all fun d => decide (d < 2) || n % d != 0

/-- `k` is the first 32 bits of the fractional part of the `r`-th root of `p`: for some integer part `q`,
`q + k/2^32` is the root rounded down to 32 fractional bits. -/
def isRootFraction (r p : Nat) (k : Word) : Prop :=
  ∃ q < 20, (q * 2 ^ 32 + k.toNat) ^ r ≤ p * 2 ^ (32 * r) ∧ p * 2 ^ (32 * r) < (q * 2 ^ 32 + k.toNat + 1) ^ r

/-- The primitive's byte form: the 32-byte digest `BE(H(m))` (45_sha256.md R228). -/
def sha256Bytes (m : List Byte) : List Byte := beBytes (sha256 m).toList

end Sys2Proof.Machine
end

