-- ==== Sys2Proof/Certificates/Slice0/Obligations.lean ====
section
/-! DEFINITION. The statements about the model, each taken from the numbered rules of spec/. No statement says
what T holds: 10_state.md R42 and R45 leave T's value between commands unspecified (log 4), so a completion's or
a soft reset's effect on it is left open. -/

open Sys2Proof Sys2Proof.Machine

-- Encoding (30_encoding.md)

/-- R100 to R103: decode and encode agree, both ways. Every command at every register number decodes from its
encoding, so no bit is dropped, and no other word decodes to it. -/
def Obligations.DecodeAndEncodeAgree : Prop :=
  ∀ (w : Word) (i : Instr), decode w = .ok i ↔ w = encode i

/-- R104: the three ways to be illegal, what writing an illegal word does, and the match/mask table. -/
def Obligations.LegalWordsAreTheTableRows : Prop :=
  ∀ w : Word,
    ((∃ e, decode w = .error e) ↔
      (fieldsOf w).rsv ≠ 0 ∨ (fieldsOf w).opc ∉ assignedOpcodes ∨ (fieldsOf w).unusedZero = false) ∧
    ((∃ i, decode w = .ok i) ↔ ∃ row ∈ opcodeTable, matchesRow w row = true) ∧
    (∀ r1 ∈ opcodeTable, ∀ r2 ∈ opcodeTable, matchesRow w r1 = true → matchesRow w r2 = true → r1 = r2) ∧
    ∀ (s : State) (e : DecodeError), decode w = .error e → s.inflight = none →
      s.writeTarget .cmd w = { s with err := true, errcode := if s.err then s.errcode else 1 }

/-- The words of 95_test_vectors.md V-ENC-1 to V-ENC-15 and the example of R107. -/
def Obligations.CommandWordsDecode : Prop :=
  decode 0x00000001 = .ok .msgClear ∧ decode 0x00000C02 = .ok (.msgAppd 3) ∧
  decode 0x00000210 = .ok (.dhBytes 2) ∧ decode 0x00000311 = .ok (.dhWords 3) ∧
  decode 0x00001B12 = .ok (.dhParent 3 2 1) ∧ decode 0x00001212 = .ok (.dhParent 2 0 1) ∧
  decode 0x00000012 = .ok (.dhParent 0 0 0) ∧
  decode 0x00000820 = .ok (.cvToint 2) ∧ decode 0x00000321 = .ok (.cvFromint 3) ∧
  decode 0x00003C22 = .ok (.cvCmpeq 3 3) ∧ decode 0x00000000 = .error .unassignedOpcode ∧
  decode 0x00004010 = .error .reservedBits ∧ decode 0x00000401 = .error .unusedField ∧
  decode 0x00000120 = .error .unusedField ∧ decode 0x00000013 = .error .unassignedOpcode ∧
  decode 0x000000FF = .error .unassignedOpcode

/-- R107: a command's text reads back as the command, whatever the case of its mnemonic's letters. -/
def Obligations.AssemblerTextReadsBack : Prop :=
  ∀ (i : Instr) (m : List Char), m.map capital = mnemonic i →
    parseInstr (m ++ printRegs (operandList i)) = some i

-- The step (70_reset_and_hazards.md, 20_memory.md)

/-- R286: on the engine's turn a command in flight completes, and the step is exec of that command. So a word
that decodes runs as its instruction when it stands where the engine takes its next command from (the model's
`withFetchWord`, log 10). -/
def Obligations.StepCompletesTheCommandInFlight : Prop :=
  (∀ (s : State) (i : Instr), s.params.wf = true → s.completes i → step s = exec i s.popTurn) ∧
  (∀ (s : State) (w : Word) (i : Instr), s.params.wf = true → decode w = .ok i →
    step (s.withFetchWord 32 w.toNat) = exec i (s.latch i))

/-- R9: a step is refused exactly when `MSG_CAP_BYTES` breaks the constraints. -/
def Obligations.StepIsRefusedExactlyOnIllFormedCapacity : Prop :=
  ∀ s : State, (∃ r, step s = .refused r) ↔
    ¬ (s.params.msgCap % 4 = 0 ∧ 64 ≤ s.params.msgCap ∧ s.params.msgCap ≤ 0xFFFFFFFC)

/-- R71, R73, R74, R75, R79: on the host's turn a 32-bit access at an aligned offset of the window reaches the
register there, or `unmapped`: a write acts on it (at an unmapped offset it raises BAD_ACCESS); a read of a word
that has been written, or of anything but a data word, returns its current value (0 at an unmapped offset) and
changes nothing of the block; a read of a data word that nothing has written is fault UnwrittenRead (R44, R258). -/
def Obligations.HostAccessReachesItsRegister : Prop :=
  ∀ (s : State) (off : Nat) (v : Word) (rest : List HostOp), s.params.wf = true →
    s.mover = .host → off < 4096 → off % 4 = 0 →
    (s.port = .write (s.params.base + off) 4 v :: rest →
      step s = .next (State.writeTarget { s with port := rest, turns := s.turns.tail } (targetOf off) v)) ∧
    (s.port = .read (s.params.base + off) 4 :: rest →
      (s.targetWritten (targetOf off) = true → ∃ x, s.readTarget (targetOf off) = .ok x ∧
        step s = .next { s with port := rest, turns := s.turns.tail, returned := x :: s.returned }) ∧
      (s.targetWritten (targetOf off) = false →
        s.readTarget (targetOf off) = .error .unwrittenRead ∧ step s = .fault .unwrittenRead ∧
        ((∃ i j, targetOf off = .dr i j) ∨ ∃ k, targetOf off = .ir k)) ∧
      (targetOf off = .unmapped →
        step s = .next { s with port := rest, turns := s.turns.tail, returned := 0 :: s.returned })) ∧
    (s.port = .write (s.params.base + off) 4 v :: rest → targetOf off = .unmapped →
      step s = .next (State.raiseError { s with port := rest, turns := s.turns.tail } .badAccess))

/-- R72, R258: an access that is not 32 bits wide, not aligned or outside the window, and only such an access, is
fault BadBusAccess; and a step stops at no fault but R258's: a host's at BadBusAccess or UnwrittenRead, a completion
at UnwrittenOperand. -/
def Obligations.BadBusAccessFaults : Prop :=
  (∀ (s : State) (addr bytes : Nat) (v : Word) (rest : List HostOp), s.params.wf = true → s.mover = .host →
    (s.port = .read addr bytes :: rest ∨ s.port = .write addr bytes v :: rest) →
    (step s = .fault .badBusAccess ↔
      bytes ≠ 4 ∨ addr < s.params.base ∨ s.params.base + 4096 ≤ addr ∨ (addr - s.params.base) % 4 ≠ 0)) ∧
  ∀ (s : State) (f : Fault), step s = .fault f →
    (s.mover = .host ∧ (f = .badBusAccess ∨ f = .unwrittenRead)) ∨ (s.mover = .engine ∧ f = .unwrittenOperand)

/-- R73: no read has a side effect. Whatever is read, only the host's side of the port changes. -/
def Obligations.NoReadHasASideEffect : Prop :=
  ∀ (s s' : State) (addr bytes : Nat) (rest : List HostOp), s.mover = .host →
    s.port = .read addr bytes :: rest → step s = .next s' →
    ∃ v, s' = { s with port := rest, turns := s.turns.tail, returned := v :: s.returned }

/-- R108: `wait` reads STATUS and is left exactly when BUSY reads 0. -/
def Obligations.WaitIsLeftExactlyWhenNotBusy : Prop :=
  ∀ (s : State) (rest : List HostOp), s.params.wf = true → s.mover = .host → s.port = .wait :: rest →
    step s = .next { s with
      port := if s.inflight = none then rest else .wait :: rest
      turns := s.turns.tail
      returned := s.statusWord :: s.returned }

/-- R108: `do M ops` from an idle block (no turn prescribed) performs M: the CMD write, the completion and one
poll; the state is M's, and the poll read BUSY = 0. -/
def Obligations.DoRunsTheCommand : Prop :=
  ∀ (s t : State) (i : Instr) (rest : List HostOp), s.params.wf = true → s.inflight = none → s.turns = [] →
    s.port = hDo s.params i ++ rest → writeError s .cmd (encode i) = none →
    exec i { s with port := rest, inflight := some i } = .next t →
    run 3 s = .next { t with returned := t.statusWord :: t.returned }

/-- R108: `ld dN, [v0, ..., v7]` from an idle block (no turn prescribed) writes the eight words of dN in eight
accesses and marks them written. -/
def Obligations.LoadWritesTheDigest : Prop :=
  ∀ (s : State) (n : DReg) (d : Digest) (rest : List HostOp), s.params.wf = true → s.inflight = none →
    s.turns = [] → s.port = hLd s.params n d ++ rest →
    run 8 s = .next { s with
      dr := s.dr.set n d
      drWritten := s.drWritten.set n (Eight.const true)
      port := rest }

-- The register window (20_memory.md)

/-- R71: the register map: every register's offset, every unmapped offset, and the access column. -/
def Obligations.OffsetsNameTheirRegisters : Prop :=
  (targetOf 0x000 = .id ∧ targetOf 0x004 = .ctrl ∧ targetOf 0x008 = .status ∧ targetOf 0x00C = .cmd ∧
    targetOf 0x010 = .msgLen ∧ targetOf 0x014 = .msgCap ∧ targetOf 0x018 = .msgPush8 ∧
    targetOf 0x01C = .msgPush32) ∧
  (∀ (i : DReg) (j : Fin 8), targetOf (0x100 + 32 * i.val + 4 * j.val) = .dr i j) ∧
  (∀ k : Fin 8, targetOf (0x180 + 4 * k.val) = .ir k) ∧
  (∀ off, off < 4096 → off % 4 = 0 →
    (targetOf off = .unmapped ↔ (0x020 ≤ off ∧ off ≤ 0x0FC) ∨ 0x1A0 ≤ off)) ∧
  (∀ t off, offsetOf t = some off ↔ t ≠ .unmapped ∧ off < 4096 ∧ off % 4 = 0 ∧ targetOf off = t) ∧
  (∀ t, t.rejectsWrite = true ↔ t ∈ [Target.id, .status, .msgLen, .msgCap, .unmapped])

/-- R35 to R41, R43, R73: what each control register and an unmapped offset read as, and the fields of STATUS
with BUSY = 1 exactly when a command is in flight. -/
def Obligations.ControlRegistersReadAsTheRulesSay : Prop :=
  ∀ s : State, s.readTarget .id = .ok 0x44484531 ∧ s.readTarget .ctrl = .ok 0 ∧
    s.readTarget .status = .ok s.statusWord ∧ s.readTarget .cmd = .ok 0 ∧
    s.readTarget .msgLen = .ok (BitVec.ofNat 32 s.msg.length) ∧
    s.readTarget .msgCap = .ok (BitVec.ofNat 32 s.params.msgCap) ∧
    s.readTarget .msgPush8 = .ok 0 ∧ s.readTarget .msgPush32 = .ok 0 ∧ s.readTarget .unmapped = .ok 0 ∧
    (s.statusWord.getLsbD 0 = true ↔ s.inflight ≠ none) ∧ s.statusWord.getLsbD 1 = s.eq ∧
    s.statusWord.getLsbD 2 = s.err ∧ s.statusWord.getLsbD 3 = false ∧
    s.statusWord.extractLsb' 4 4 = s.errcode ∧ s.statusWord.extractLsb' 8 24 = 0

/-- R74, R75: what a host write to a register does, the first step that applies ending it. -/
def Obligations.HostWritesTakeTheFirstStepThatApplies : Prop :=
  ∀ (s : State) (v : Word),
    (∀ t ∈ [Target.id, .status, .msgLen, .msgCap, .unmapped], s.writeTarget t v = s.raiseError .badAccess) ∧
    s.writeTarget .ctrl v = s.ctrlAction v ∧
    (s.inflight ≠ none → ∀ t ∉ [Target.id, .status, .msgLen, .msgCap, .unmapped, .ctrl],
      s.writeTarget t v = s.raiseError .busy) ∧
    (s.inflight = none →
      s.writeTarget .cmd v = s.issue v ∧ s.writeTarget .msgPush8 v = s.push8 v ∧
      s.writeTarget .msgPush32 v = s.push32 v ∧
      (∀ i j, s.writeTarget (.dr i j) v = { s with
        dr := s.dr.set i ((s.dr.get i).set j v)
        drWritten := s.drWritten.set i ((s.drWritten.get i).set j true) }) ∧
      ∀ k, s.writeTarget (.ir k) v = { s with ir := s.ir.set k v, irWritten := s.irWritten.set k true })

/-- R73, R75: with BUSY = 0 a data word reads back what was written to it, and every other register reads as
before. -/
def Obligations.DataWordReadsBack : Prop :=
  ∀ (s : State) (t : Target) (v : Word), s.inflight = none → ((∃ i j, t = .dr i j) ∨ ∃ k, t = .ir k) →
    (s.writeTarget t v).readTarget t = .ok v ∧
    ∀ t', t' ≠ t → (s.writeTarget t v).readTarget t' = s.readTarget t'

/-- R36, R282: the CTRL actions, accepted whether or not BUSY = 1; a soft reset abandons a command in flight. -/
def Obligations.CtrlWritesAct : Prop :=
  ∀ (s : State) (v : Word),
    (v.getLsbD 0 = true → ∃ x, s.writeTarget .ctrl v =
      { s with t := x, inflight := none, eq := false, err := false, errcode := 0, msg := [] }) ∧
    (v.getLsbD 0 = false → v.getLsbD 1 = true → s.writeTarget .ctrl v = { s with err := false, errcode := 0 }) ∧
    (v.getLsbD 0 = false → v.getLsbD 1 = false → s.writeTarget .ctrl v = s) ∧
    s.readTarget .ctrl = .ok 0

-- Errors (60_exceptions.md)

/-- R252, R253: the first error is recorded with its code, a later one is not counted, and nothing else changes;
the write that raised it has no other effect. -/
def Obligations.RaiseErrorKeepsTheFirst : Prop :=
  ∀ (s : State) (c : ErrorCode),
    (s.err = false → s.raiseError c = { s with err := true, errcode := c.code }) ∧
    (s.err = true → s.raiseError c = s) ∧
    ∀ (t : Target) (v : Word), writeError s t v = some c → s.writeTarget t v = s.raiseError c

/-- R251, R254, R255, R288: the five error codes; a write reports the first error its checks find, by its code;
a write that raises none (other than a CTRL write) leaves the error fields alone. While BUSY = 1 every write but a CTRL write is
dropped, with BAD_ACCESS for a read-only or unmapped offset and BUSY for the others. -/
def Obligations.WritesReportTheFirstErrorOnly : Prop :=
  (ErrorCode.illegalCmd.code = 1 ∧ ErrorCode.msgMisaligned.code = 2 ∧ ErrorCode.msgOverflow.code = 3 ∧
    ErrorCode.busy.code = 4 ∧ ErrorCode.badAccess.code = 5) ∧
  ∀ (s : State) (t : Target) (v : Word),
    (∀ c, writeError s t v = some c → (s.writeTarget t v).err = true ∧
      (s.writeTarget t v).errcode = if s.err then s.errcode else
        match c with
        | .illegalCmd => 1
        | .msgMisaligned => 2
        | .msgOverflow => 3
        | .busy => 4
        | .badAccess => 5) ∧
    (writeError s t v = none → t ≠ .ctrl →
      (s.writeTarget t v).err = s.err ∧ (s.writeTarget t v).errcode = s.errcode) ∧
    (s.inflight ≠ none → t ≠ .ctrl → s.writeTarget t v = { s with
      err := true
      errcode := if s.err then s.errcode else if t.rejectsWrite then 5 else 4 })

/-- R254: what a write of a command word does, check by check, and what it latches. -/
def Obligations.IssueMakesItsChecksInOrder : Prop :=
  ∀ (s : State) (w : Word),
    (s.inflight ≠ none → s.issue w = s.raiseError .busy) ∧
    (∀ e, s.inflight = none → decode w = .error e → s.issue w = s.raiseError .illegalCmd) ∧
    (∀ rd, s.inflight = none → decode w = .ok (.dhWords rd) → s.msg.length % 4 ≠ 0 →
      s.params.wordsPolicy = .fault → s.issue w = s.raiseError .msgMisaligned) ∧
    (∀ r, s.inflight = none → decode w = .ok (.msgAppd r) → s.params.msgCap < s.msg.length + 32 →
      s.issue w = s.raiseError .msgOverflow) ∧
    (∀ i, s.inflight = none → decode w = .ok i →
      (∀ rd, i = .dhWords rd → s.msg.length % 4 = 0 ∨ s.params.wordsPolicy = .truncate) →
      (∀ r, i = .msgAppd r → s.msg.length + 32 ≤ s.params.msgCap) →
      s.issue w = { s with inflight := some i })

/-- R256: a recorded error blocks nothing: writes and completions do what they do with ERR = 0, and their own
errors are not recorded. The only writes that treat the error fields differently are CTRL's, which clear them. -/
def Obligations.RecordedErrorBlocksNothing : Prop :=
  ∀ (s : State) (c : BitVec 4),
    (∀ (t : Target) (v : Word), t ≠ .ctrl →
      State.writeTarget { s with err := true, errcode := c } t v =
        { s.writeTarget t v with err := true, errcode := c }) ∧
    (∀ v : Word, ∃ x,
      { State.writeTarget { s with err := true, errcode := c } .ctrl v with t := x, err := false, errcode := 0 } =
        { s.writeTarget .ctrl v with t := x, err := false, errcode := 0 }) ∧
    (∀ i : Instr, exec i { s with err := true, errcode := c } =
      mapNext (fun u => { u with err := true, errcode := c }) (exec i s))

/-- R257: a recorded error is cleared or changed only by a CTRL write with bit 1 or bit 0 (soft reset) set; both
clear it, and a power-on reset leaves none; ERR_CLR does not affect a command in flight. -/
def Obligations.ErrorsAreClearedOnlyByCtrlOrReset : Prop :=
  (∀ s s' : State, step s = .next s' → s.err = true → (s'.err = false ∨ s'.errcode ≠ s.errcode) →
    ∃ v, s.hostWrites .ctrl v ∧ (v.getLsbD 0 = true ∨ v.getLsbD 1 = true)) ∧
  (∀ (s : State) (v : Word), v.getLsbD 0 = false → v.getLsbD 1 = true →
    (s.writeTarget .ctrl v).err = false ∧ (s.writeTarget .ctrl v).errcode = 0 ∧
      (s.writeTarget .ctrl v).inflight = s.inflight) ∧
  (∀ (s : State) (v : Word), v.getLsbD 0 = true →
    (s.writeTarget .ctrl v).err = false ∧ (s.writeTarget .ctrl v).errcode = 0) ∧
  (∀ p d n x, (State.powerOn p d n x).err = false ∧ (State.powerOn p d n x).errcode = 0)

/-- R47, R250: a completion records no error, and only CV.CMPEQ's touches EQ. -/
def Obligations.CompletionsTouchNoFlagButEq : Prop :=
  ∀ (i : Instr) (s t : State), exec i s = .next t →
    t.err = s.err ∧ t.errcode = s.errcode ∧ t.busy = false ∧ (t.eq = s.eq ∨ ∃ a b, i = .cvCmpeq a b)

-- The message buffer (41_message_input.md)

/-- R160, R161, R162: the pushes append their bytes, the most significant first, or nothing; MSG.APPD is
issued or refused by the same rule, and an exact fit succeeds. -/
def Obligations.AppendsAreAllOrNothing : Prop :=
  ∀ (s : State) (v : Word), s.inflight = none →
    (s.params.msgCap < s.msg.length + 1 → s.writeTarget .msgPush8 v = s.raiseError .msgOverflow) ∧
    (s.msg.length + 1 ≤ s.params.msgCap →
      s.writeTarget .msgPush8 v = { s with msg := s.msg ++ [v.extractLsb' 0 8] }) ∧
    (s.params.msgCap < s.msg.length + 4 → s.writeTarget .msgPush32 v = s.raiseError .msgOverflow) ∧
    (s.msg.length + 4 ≤ s.params.msgCap →
      s.writeTarget .msgPush32 v = { s with
        msg := s.msg ++ [v.extractLsb' 24 8, v.extractLsb' 16 8, v.extractLsb' 8 8, v.extractLsb' 0 8] }) ∧
    (∀ r, s.params.msgCap < s.msg.length + 32 →
      s.writeTarget .cmd (encode (.msgAppd r)) = s.raiseError .msgOverflow) ∧
    (∀ r, s.msg.length + 32 ≤ s.params.msgCap →
      s.writeTarget .cmd (encode (.msgAppd r)) = { s with inflight := some (.msgAppd r) })

/-- R163, completion of MSG.CLEAR: the buffer is empty and nothing else is touched. -/
def Obligations.MsgClearEmptiesTheBuffer : Prop :=
  ∀ s : State, ∃ x, exec .msgClear s = .next { s with t := x, msg := [], inflight := none }

/-- R165, completion of MSG.APPD: the 32-byte view of the register is appended, nothing else is touched. All
words of the register are written (the other case, R44, is
UnwrittenDataFaults). -/
def Obligations.MsgAppdAppendsTheByteView : Prop :=
  ∀ (s : State) (r : DReg), s.digestWritten r = true →
    ∃ x, exec (.msgAppd r) s = .next { s with
      t := x, msg := s.msg ++ byteView (s.dr.get r), inflight := none }

/-- R164, R192: `BE(ws)[4i + b] = ws[i][31-8b : 24-8b]`; the byte view of a digest is the 32 bytes of its
eight words; `WORDS(bs)[i] = {bs[4i], ..., bs[4i+3]}` on lengths that are a multiple of 4, and it is the inverse
of BE. -/
def Obligations.BytesAndWordsAreBigEndian : Prop :=
  (∀ (ws : List Word) (i b : Nat) (w : Word), ws[i]? = some w → b < 4 →
    (beBytes ws)[4 * i + b]? = some (w.extractLsb' (24 - 8 * b) 8)) ∧
  (∀ d : Digest, byteView d = beBytes d.toList ∧ (byteView d).length = 32) ∧
  (∀ (bs : List Byte) (n i : Nat), bs.length = 4 * n → i < n →
    (beWords bs)[i]? =
      some (bs.getD (4 * i) 0 ++ bs.getD (4 * i + 1) 0 ++ bs.getD (4 * i + 2) 0 ++ bs.getD (4 * i + 3) 0)) ∧
  (∀ ws : List Word, (beBytes ws).length = 4 * ws.length ∧ beWords (beBytes ws) = ws) ∧
  (∀ bs : List Byte, bs.length % 4 = 0 → beBytes (beWords bs) = bs)

-- The double hash (42_double_hash.md)

/-- R193, completion of DH.BYTES: DR[rd] is the double hash of the raw bytes of MSG, of any length, and
nothing else is touched. -/
def Obligations.DhBytesHashesTheMessageTwice : Prop :=
  ∀ (s : State) (rd : DReg), ∃ x, exec (.dhBytes rd) s = .next { s with
    t := x
    dr := s.dr.set rd (sha256 (beBytes (sha256 s.msg).toList))
    drWritten := s.drWritten.set rd (Eight.const true)
    inflight := none }

/-- R194, completion of DH.WORDS: DR[rd] is the double hash of the whole words of MSG; trailing bytes (policy
TRUNCATE) are ignored. -/
def Obligations.DhWordsHashesTheWholeWordsTwice : Prop :=
  ∀ (s : State) (rd : DReg), ∃ x, exec (.dhWords rd) s = .next { s with
    t := x
    dr := s.dr.set rd (sha256 (beBytes (sha256 (s.msg.take (4 * (s.msg.length / 4)))).toList))
    drWritten := s.drWritten.set rd (Eight.const true)
    inflight := none }

/-- R195, completion of DH.PARENT: DR[rd] is the double hash of left ++ right, both read before DR[rd] is
written (rd may be rs1, rs2 or both), and nothing else is touched. All words of both sources are written (the other case, R44, is
UnwrittenDataFaults). -/
def Obligations.DhParentHashesBothDigestsTwice : Prop :=
  ∀ (s : State) (rd rs1 rs2 : DReg), s.digestWritten rs1 = true → s.digestWritten rs2 = true →
    ∃ x, exec (.dhParent rd rs1 rs2) s = .next { s with
      t := x
      dr := s.dr.set rd (sha256 (beBytes
        (sha256 (beBytes ((s.dr.get rs1).toList ++ (s.dr.get rs2).toList))).toList))
      drWritten := s.drWritten.set rd (Eight.const true)
      inflight := none }

/-- R196, the four laws of the family, for any primitive H (the fourth for SHA-256). In the second all
words of the sources are written (R44). -/
def Obligations.HashEntryPointsAgree : Prop :=
  (∀ (H : Primitive) (s : State) (rd : DReg), s.msg.length % 4 = 0 →
    (s.hashMessageWords H rd).dr = (s.hashMessageBytes H rd).dr) ∧
  (∀ (H : Primitive) (s : State) (rd a b : DReg), s.digestWritten a = true → s.digestWritten b = true →
    ∃ u s1 s2 s3, s.hashParent H rd a b = .next u ∧ exec .msgClear s = .next s1 ∧
      exec (.msgAppd a) s1 = .next s2 ∧ exec (.msgAppd b) s2 = .next s3 ∧
      u.dr.get rd = (s3.hashMessageBytes H rd).dr.get rd) ∧
  (∀ (H : Primitive) (s : State) (rd : DReg) (vs : List Word), s.msg = [] → 4 * vs.length ≤ s.params.msgCap →
    ((vs.foldl State.push32 s).hashMessageWords H rd).dr.get rd = doubleHashWords H vs) ∧
  (∀ (s : State) (rd : DReg),
    byteView ((s.hashMessageBytes sha256 rd).dr.get rd) = sha256Bytes (sha256Bytes s.msg))

/-- R198: a command's result is a function of MSG, DR and IR (with their written bits, R44) at issue: from two
states that agree on them, and whatever else they hold, it completes with the same results, or stops in both. -/
def Obligations.ResultIsAFunctionOfTheInputs : Prop :=
  ∀ (i : Instr) (s u : State), s.msg = u.msg → s.dr = u.dr → s.drWritten = u.drWritten →
    s.ir = u.ir → s.irWritten = u.irWritten →
    (∀ f, exec i s = .fault f → exec i u = .fault f) ∧
    (∀ t, exec i s = .next t → ∃ t', exec i u = .next t' ∧ t'.msg = t.msg ∧ t'.dr = t.dr ∧
      t'.drWritten = t.drWritten ∧ t'.ir = t.ir ∧ t'.irWritten = t.irWritten ∧
      ((∃ a b, i = .cvCmpeq a b) → t'.eq = t.eq))

-- The converter (40_converter.md)

/-- R130: the mapping between a digest and a 256-bit integer, in all the forms the rule gives. -/
def Obligations.ConverterMapsWordZeroToTheTop : Prop :=
  ∀ d : Digest,
    limbsLow (transpose d) = digestLow d ∧ limbsHigh (transpose d) = digestHigh d ∧
    limbsNat (transpose d) = digestNat d ∧
    digestNat d = ((List.finRange 8).map fun i => (d.get i).toNat <<< (32 * (7 - i.val))).sum ∧
    (∀ i : Fin 8, digestNat d / 2 ^ (224 - 32 * i.val) % 2 ^ 32 = (d.get i).toNat) ∧
    ∀ k : Fin 8, (transpose d).get k = d.get (7 - k)

/-- R131, completion of CV.TOINT: limb k is word 7-k, all limbs are marked written, nothing else is touched. All
words of the register are written (the other case, R44, is
UnwrittenDataFaults). -/
def Obligations.CvTointWritesTheTranspose : Prop :=
  ∀ (s : State) (r : DReg), s.digestWritten r = true →
    ∃ x, exec (.cvToint r) s = .next { s with
      t := x
      ir := ⟨(s.dr.get r).get 7, (s.dr.get r).get 6, (s.dr.get r).get 5, (s.dr.get r).get 4,
        (s.dr.get r).get 3, (s.dr.get r).get 2, (s.dr.get r).get 1, (s.dr.get r).get 0⟩
      irWritten := Eight.const true
      inflight := none }

/-- R132, completion of CV.FROMINT: word i is limb 7-i, all words are marked written, nothing else is
touched. All limbs are written (the other case, R44, is
UnwrittenDataFaults). -/
def Obligations.CvFromintWritesTheTranspose : Prop :=
  ∀ (s : State) (rd : DReg), s.limbsWritten = true →
    ∃ x, exec (.cvFromint rd) s = .next { s with
      t := x
      dr := s.dr.set rd ⟨s.ir.get 7, s.ir.get 6, s.ir.get 5, s.ir.get 4, s.ir.get 3, s.ir.get 2, s.ir.get 1,
        s.ir.get 0⟩
      drWritten := s.drWritten.set rd (Eight.const true)
      inflight := none }

/-- R134, R135, completion of CV.CMPEQ: EQ is 1 exactly when all eight words are pairwise equal, nothing else
is touched. All words of both sources are written (the other case, R44, is
UnwrittenDataFaults). -/
def Obligations.CvCmpeqComparesWordByWord : Prop :=
  ∀ (s : State) (a b : DReg), s.digestWritten a = true → s.digestWritten b = true →
    ∃ x, exec (.cvCmpeq a b) s = .next { s with
      t := x, eq := decide (∀ j, (s.dr.get a).get j = (s.dr.get b).get j), inflight := none }

/-- R133: both round trips of the converter, through any register. All words of the source are
written (R44). -/
def Obligations.ConverterRoundTrips : Prop :=
  (∀ (s : State) (a b : DReg), s.digestWritten a = true →
    ∃ t u, exec (.cvToint a) s = .next t ∧ exec (.cvFromint b) t = .next u ∧ u.dr.get b = s.dr.get a) ∧
  (∀ (s : State) (b : DReg), s.limbsWritten = true →
    ∃ t u, exec (.cvFromint b) s = .next t ∧ exec (.cvToint b) t = .next u ∧ limbsNat u.ir = limbsNat s.ir ∧
      u.ir = s.ir)

-- Frames

/-- What a hash command leaves unchanged: every other digest register, IR, MSG, the flags other than BUSY, and
every register of the window but DR[rd]'s words and STATUS. -/
def Obligations.HashCommandsFrame : Prop :=
  ∀ (i : Instr) (rd : DReg) (s t : State),
    (i = .dhBytes rd ∨ i = .dhWords rd ∨ ∃ a b, i = .dhParent rd a b) → exec i s = .next t →
    (∀ r, r ≠ rd → t.dr.get r = s.dr.get r ∧ t.drWritten.get r = s.drWritten.get r) ∧
    t.ir = s.ir ∧ t.irWritten = s.irWritten ∧ t.msg = s.msg ∧ t.eq = s.eq ∧ t.err = s.err ∧
    t.errcode = s.errcode ∧ t.params = s.params ∧ t.port = s.port ∧ t.turns = s.turns ∧
    t.returned = s.returned ∧ t.statusWord = s.statusWord &&& 0xFFFFFFFE ∧
    ∀ q : Target, q ≠ .status → (∀ j, q ≠ .dr rd j) → t.readTarget q = s.readTarget q

/-- What a converter command leaves unchanged: MSG, the error fields, and every register of the window but the
command's destination and STATUS. -/
def Obligations.ConverterCommandsFrame : Prop :=
  ∀ (i : Instr) (s t : State),
    ((∃ r, i = .cvToint r) ∨ (∃ rd, i = .cvFromint rd) ∨ ∃ a b, i = .cvCmpeq a b) → exec i s = .next t →
    t.msg = s.msg ∧ t.err = s.err ∧ t.errcode = s.errcode ∧ t.params = s.params ∧ t.port = s.port ∧
    t.turns = s.turns ∧ t.returned = s.returned ∧
    ((∃ r, i = .cvToint r) → t.dr = s.dr ∧ t.drWritten = s.drWritten ∧ t.eq = s.eq) ∧
    (∀ rd, i = .cvFromint rd → t.ir = s.ir ∧ t.irWritten = s.irWritten ∧ t.eq = s.eq ∧
      ∀ r, r ≠ rd → t.dr.get r = s.dr.get r ∧ t.drWritten.get r = s.drWritten.get r) ∧
    ((∃ a b, i = .cvCmpeq a b) →
      t.dr = s.dr ∧ t.drWritten = s.drWritten ∧ t.ir = s.ir ∧ t.irWritten = s.irWritten) ∧
    ∀ q : Target, writesTarget i q = false → t.readTarget q = s.readTarget q

/-- What a message command leaves unchanged: DR, IR, the flags other than BUSY, the bytes of MSG below the old
MSG_LEN (MSG.APPD), and every register of the window but MSG_LEN and STATUS. -/
def Obligations.MessageCommandsFrame : Prop :=
  ∀ (i : Instr) (s t : State), (i = .msgClear ∨ ∃ r, i = .msgAppd r) → exec i s = .next t →
    t.dr = s.dr ∧ t.drWritten = s.drWritten ∧ t.ir = s.ir ∧ t.irWritten = s.irWritten ∧ t.eq = s.eq ∧
    t.err = s.err ∧ t.errcode = s.errcode ∧ t.params = s.params ∧ t.port = s.port ∧ t.turns = s.turns ∧
    t.returned = s.returned ∧
    (∀ r n, i = .msgAppd r → n < s.msg.length → t.msg[n]? = s.msg[n]?) ∧
    ∀ q : Target, q ≠ .msgLen → q ≠ .status → t.readTarget q = s.readTarget q

-- Unwritten data words (10_state.md R44)

/-- R44, R250, R258: a step stops with fault UnwrittenOperand exactly when it is a completion that reads an
unwritten word as an operand, and with fault UnwrittenRead exactly when it is a host read of one; a fault stops every
longer run and ends none (it is never final). Which command reads which operands; and a command completes exactly
when every word it reads has been written. The hardware keeps no written bits: steps that use no unwritten word do
the same whatever the bits are. -/
def Obligations.UnwrittenDataFaults : Prop :=
  (∀ s : State, s.params.wf = true →
    (step s = .fault .unwrittenOperand ↔ s.usesUnwrittenOperand) ∧
    (step s = .fault .unwrittenRead ↔ s.readsUnwritten)) ∧
  (∀ (s : State) (f : Fault) (k : Nat), step s = .fault f → run (k + 1) s = .fault f ∧ s.runEnd = none) ∧
  (∀ (s : State) (dw : Four (Eight Bool)) (iw : Eight Bool),
    ¬ (s.usesUnwrittenOperand ∨ s.readsUnwritten) →
    ¬ ((s.withWritten dw iw).usesUnwrittenOperand ∨ (s.withWritten dw iw).readsUnwritten) →
    ∃ dw' iw', step (s.withWritten dw iw) = mapNext (fun t => t.withWritten dw' iw') (step s)) ∧
  ∀ s : State,
    (∀ (r : DReg) (j : Fin 8), (s.drWritten.get r).get j = false →
      exec (.msgAppd r) s = .fault .unwrittenOperand ∧ exec (.cvToint r) s = .fault .unwrittenOperand ∧
      s.readTarget (.dr r j) = .error .unwrittenRead ∧
      ∀ a rd : DReg, exec (.cvCmpeq r a) s = .fault .unwrittenOperand ∧
        exec (.cvCmpeq a r) s = .fault .unwrittenOperand ∧
        exec (.dhParent rd r a) s = .fault .unwrittenOperand ∧
        exec (.dhParent rd a r) s = .fault .unwrittenOperand) ∧
    (∀ (k : Fin 8) (rd : DReg), s.irWritten.get k = false →
      exec (.cvFromint rd) s = .fault .unwrittenOperand ∧ s.readTarget (.ir k) = .error .unwrittenRead) ∧
    (∀ i, (∃ t, exec i s = .next t) ↔ s.operandsWritten i = true) ∧
    ((∀ r j, (s.drWritten.get r).get j = true) → (∀ k, s.irWritten.get k = true) →
      (∀ i, s.operandsWritten i = true) ∧ ∀ q, ∃ v, s.readTarget q = .ok v)

/-- R44: no step clears a written bit; a soft reset leaves them as they are. -/
def Obligations.WrittenBitsStaySet : Prop :=
  ∀ s s' : State, step s = .next s' →
    (∀ i j, (s.drWritten.get i).get j = true → (s'.drWritten.get i).get j = true) ∧
    (∀ k, s.irWritten.get k = true → s'.irWritten.get k = true) ∧
    (s.softResets → s'.drWritten = s.drWritten ∧ s'.irWritten = s.irWritten)

-- The whole machine

/-- R31, R33, R75: a step changes a digest register only by a host write of one of its words with BUSY = 0 or by
the completion of a command whose destination it is; it changes IR only by a host write of a limb with BUSY = 0
or by the completion of CV.TOINT. -/
def Obligations.DataRegistersChangeOnlyByTheirWriters : Prop :=
  ∀ s s' : State, step s = .next s' →
    (∀ r : DReg, (s'.dr.get r ≠ s.dr.get r ∨ s'.drWritten.get r ≠ s.drWritten.get r) →
      (s.inflight = none ∧ ∃ j v, s.hostWrites (.dr r j) v) ∨
        ∃ i, s.completes i ∧
          (i = .dhBytes r ∨ i = .dhWords r ∨ (∃ a b, i = .dhParent r a b) ∨ i = .cvFromint r)) ∧
    ((s'.ir ≠ s.ir ∨ s'.irWritten ≠ s.irWritten) →
      (s.inflight = none ∧ ∃ k v, s.hostWrites (.ir k) v) ∨ ∃ r, s.completes (.cvToint r))

/-- R34: only the pushes and MSG.APPD change the content of MSG, and they only append; only MSG.CLEAR and a
soft reset shrink it, to empty. -/
def Obligations.MessageChangesOnlyByItsWriters : Prop :=
  ∀ s s' : State, step s = .next s' → s'.msg ≠ s.msg →
    ((∃ bytes, s'.msg = s.msg ++ bytes) ∧
      ((∃ v, s.hostWrites .msgPush8 v) ∨ (∃ v, s.hostWrites .msgPush32 v) ∨ ∃ r, s.completes (.msgAppd r))) ∨
    (s'.msg = [] ∧ (s.completes .msgClear ∨ s.softResets))

/-- R37, R47: EQ changes only by the completion of CV.CMPEQ or a soft reset. -/
def Obligations.EqChangesOnlyByCompareOrReset : Prop :=
  ∀ s s' : State, step s = .next s' → s'.eq ≠ s.eq → (∃ a b, s.completes (.cvCmpeq a b)) ∨ s.softResets

/-- R9, R34, R37, R165, R194: every step keeps the machine's invariant. -/
def Obligations.StepKeepsTheInvariant : Prop :=
  ∀ s s' : State, s.Inv → step s = .next s' → s'.Inv

/-- R45, R280: after a power-on reset the control state is as the table says, whatever the data registers
hold. -/
def Obligations.PowerOnLeavesTheControlStateDefined : Prop :=
  ∀ (p : Params) (d : Four Digest) (n : Limbs) (x : Digest),
    let s := State.powerOn p d n x
    s.msg = [] ∧ s.inflight = none ∧ s.statusWord = 0 ∧
      (∀ i j, (s.drWritten.get i).get j = false) ∧ (∀ k, s.irWritten.get k = false) ∧
      s.readTarget .msgCap = .ok (BitVec.ofNat 32 p.msgCap) ∧ (p.wf = true → s.Inv)

/-- The invariant holds of `State.reset`, whose data registers and parameters are the model's choice (log 1 to
log 4). -/
def Obligations.ResetMeetsTheInvariant : Prop := State.reset.Inv

/-- R198, R283: until it completes or a soft reset abandons it, nothing the host does changes a command in
flight or the state it computes from. -/
def Obligations.InFlightCommandKeepsItsInputs : Prop :=
  ∀ (k : Nat) (s u : State) (i : Instr), s.inflight = some i → run k s = .next u →
    (∀ j v, j < k → run j s = .next v → v.mover = .host ∧ ¬ v.softResets) →
    u.inflight = some i ∧ u.msg = s.msg ∧ u.dr = s.dr ∧ u.drWritten = s.drWritten ∧ u.ir = s.ir ∧
      u.irWritten = s.irWritten ∧ u.eq = s.eq ∧ u.params = s.params

/-- R287: every issued command completes unless a soft reset abandons it: within the turns that are left, the
run stands at its completion or at a soft reset, or a fault of a host access has stopped it (R72, R44). That the
turns are a finite list and the engine moves first after it is the model's weak fairness (log 6). -/
def Obligations.IssuedCommandCompletesOrIsAbandoned : Prop :=
  ∀ (s : State) (i : Instr), s.params.wf = true → s.inflight = some i →
    ∃ k, k ≤ s.turns.length ∧
      ((∃ u, run k s = .next u ∧ (u.completes i ∨ u.softResets)) ∨
        run k s = .fault .badBusAccess ∨ run k s = .fault .unwrittenRead)

/-- R291: a run ends at a STATUS read that returns BUSY = 0 and follows the program's last write (the accesses
still in `port` hold none), and only there; its end state is the state after that read, with nothing in flight,
and no later step changes the block: only the host's side of the port moves. That the program's accesses are
data in `port` is the model's choice (log 6). -/
def Obligations.RunEndsAtAnIdleStatusReadAfterTheLastWrite : Prop :=
  (∀ s t : State, s.runEnd = some t ↔
    step s = .next t ∧ s.mover = .host ∧ s.inflight = none ∧
      ((∃ rest, s.port = .wait :: rest) ∨ ∃ rest, s.port = .read (s.params.base + 8) 4 :: rest) ∧
      ∀ addr bytes v, HostOp.write addr bytes v ∉ t.port) ∧
  ∀ (s t u : State) (k : Nat), s.runEnd = some t → run k t = .next u →
    t.inflight = none ∧ u = { t with port := u.port, turns := u.turns, returned := u.returned }

/-- R289: a read of a register that the command in flight does not write gives the same before and after the
completion: the two orders of the agents' moves end in the same state, or both reads stop at the same fault
(a data word nothing has written, R44). -/
def Obligations.SafeReadCommutesWithCompletion : Prop :=
  ∀ (s u : State) (i : Instr) (addr off : Nat) (rest : List HostOp), s.inflight = some i →
    s.port = .read addr 4 :: rest → busOffset s.params addr 4 = some off →
    writesTarget i (targetOf off) = false → exec i s = .next u →
    (∃ f, hostTurn s = .fault f ∧ hostTurn u = .fault f) ∨
      ∃ a b, hostTurn s = .next a ∧ hostTurn u = .next b ∧ exec i a = .next b

/-- R78: `HOST_BUS_ENDIAN` has no effect on any value. -/
def Obligations.BusEndianHasNoEffect : Prop :=
  ∀ (s : State) (e : BusEndian),
    step { s with params := { s.params with busEndian := e } } =
      mapNext (fun u => { u with params := { u.params with busEndian := e } }) (step s)

-- The primitive (45_sha256.md)

/-- R221: the padding: the number of zero bytes is the smallest that works, the length field is the bit length
in 8 bytes, most significant first, and the padded message is whole blocks. -/
def Obligations.PaddingFillsWholeBlocks : Prop :=
  ∀ m : List Byte,
    shaPad m = m ++ [0x80] ++ List.replicate (padZeros m.length) 0 ++ be64 (8 * m.length) ∧
    (m.length + 1 + padZeros m.length) % 64 = 56 ∧
    (∀ z, z < padZeros m.length → (m.length + 1 + z) % 64 ≠ 56) ∧
    (shaPad m).length % 64 = 0 ∧
    (be64 (8 * m.length)).length = 8 ∧
    (8 * m.length < 2 ^ 64 → (be64 (8 * m.length)).foldl (fun a b => 256 * a + b.toNat) 0 = 8 * m.length)

/-- R226: the message schedule's recurrence. -/
def Obligations.ScheduleFollowsItsRecurrence : Prop :=
  ∀ b : List Word, b.length = 16 →
    let W := messageSchedule b
    W.length = 64 ∧ (∀ j, j < 16 → W.getD j 0 = b.getD j 0) ∧
    ∀ j, 16 ≤ j → j < 64 → W.getD j 0 = smallSigma1 (W.getD (j - 2) 0) + W.getD (j - 7) 0 +
      smallSigma0 (W.getD (j - 15) 0) + W.getD (j - 16) 0

/-- R222, R223, R227, R228: the functions on words; the round on the working values a to h; the compression is the
64 rounds on the state, added to it lane by lane; and H is the fold of the compression over the padded message's
blocks of 16 big-endian words, in order, from IV. -/
def Obligations.HashFoldsOverTheBlocks : Prop :=
  (∀ (x : Word) (n k : Nat), 0 < n → n < 32 → k < 32 →
    rotr x n = ((x >>> n) ||| (x <<< (32 - n))) ∧ (rotr x n).getLsbD k = x.getLsbD ((k + n) % 32)) ∧
  (∀ x y z : Word, shaCh x y z = ((x &&& y) ^^^ (~~~x &&& z)) ∧
    shaMaj x y z = ((x &&& y) ^^^ (x &&& z) ^^^ (y &&& z)) ∧
    bigSigma0 x = (rotr x 2 ^^^ rotr x 13 ^^^ rotr x 22) ∧
    bigSigma1 x = (rotr x 6 ^^^ rotr x 11 ^^^ rotr x 25) ∧
    smallSigma0 x = (rotr x 7 ^^^ rotr x 18 ^^^ (x >>> 3)) ∧
    smallSigma1 x = (rotr x 17 ^^^ rotr x 19 ^^^ (x >>> 10))) ∧
  (∀ a b c d e f g h k w : Word,
    let t1 := h + bigSigma1 e + shaCh e f g + k + w
    let t2 := bigSigma0 a + shaMaj a b c
    shaRound ⟨a, b, c, d, e, f, g, h⟩ k w = ⟨t1 + t2, a, b, c, d + t1, e, f, g⟩) ∧
  (∀ (s : Digest) (block : List Word) (i : Fin 8), block.length = 16 →
    (shaCompress s block).get i = s.get i +
      ((List.range 64).foldl (fun v j =>
        shaRound v (roundConstants.getD j 0) ((messageSchedule block).getD j 0)) s).get i) ∧
  ∀ m : List Byte,
    sha256 m = (List.range ((shaPad m).length / 64)).foldl (fun s t =>
      shaCompress s ((List.range 16).map fun i =>
        (shaPad m).getD (64 * t + 4 * i) 0 ++ (shaPad m).getD (64 * t + 4 * i + 1) 0 ++
          (shaPad m).getD (64 * t + 4 * i + 2) 0 ++ (shaPad m).getD (64 * t + 4 * i + 3) 0)) initialHash

/-- R224, R225: the constants are the first 32 bits of the fractional parts of the cube roots of the first 64
primes and of the square roots of the first 8. -/
def Obligations.HashConstantsAreRootFractions : Prop :=
  firstPrimes.length = 64 ∧ roundConstants.length = 64 ∧
  (∀ x ∈ firstPrimes.zip roundConstants, isRootFraction 3 x.1 x.2) ∧
  (∀ x ∈ firstPrimes.zip initialHash.toList, isRootFraction 2 x.1 x.2)

-- The reference functions (40_converter.md)

/-- R140 to R143: fast_pow is base^exponent (exponent 0 gives 1 whatever the base), shl multiplies and shr
divides by 2^shift with 0 at and past the width; a result that does not fit in W bits is fault RefOverflow. -/
def Obligations.ReferenceFunctionsAreTheirArithmetic : Prop :=
  ∀ W a n : Nat, 0 < W →
    fastPow W a n = (if a ^ n < 2 ^ W then .ok (a ^ n) else .error .refOverflow) ∧
    refShl W a n = (if W - 1 < n then .ok 0
      else if a * 2 ^ n < 2 ^ W then .ok (a * 2 ^ n) else .error .refOverflow) ∧
    refShr W a n = .ok (if W - 1 < n then 0 else a / 2 ^ n)

/-- R144: the boundary laws, for W = 32. -/
def Obligations.ReferenceBoundaryLaws : Prop :=
  (∀ v : Nat, v < 2 ^ 32 → refShr 32 v 32 = .ok 0 ∧ refShl 32 v 32 = .ok 0 ∧ refShr 32 v 0 = .ok v ∧
    refShl 32 v 0 = .ok v) ∧
  (∀ b e : Nat, e ∈ [0, 1, 2, 5, 10] → b ^ e < 2 ^ 32 → fastPow 32 b e = .ok ((List.replicate e b).prod))

/-- R145: the source's construction over 128-bit halves gives exactly the words of the converter's wiring, both
ways, and its two ways to take a limb agree. -/
def Obligations.ReferenceConstructionIsTheWiring : Prop :=
  (∀ d : Digest, refToInteger d = .ok (limbsHigh (transpose d), limbsLow (transpose d))) ∧
  (∀ l : Limbs, refFromInteger (limbsHigh l) (limbsLow l) = .ok (transpose l)) ∧
  (∀ h j : Nat, h < 2 ^ 128 → j < 4 →
    refLimb h j = (refShrTimes j h).map fun x => BitVec.ofNat 32 (x &&& 0xffffffff))
end

