-- ==== Sys2Proof/Laws/Lanes.lean ====
section
/-! SUPPORT. The small laws of the lanes: two values with equal lanes are equal, a read after a write gives
what was written, and a write leaves every other lane alone. -/

namespace Sys2Proof.Machine

variable {α : Type}

theorem Eight.ext_get {v w : Eight α} (h : ∀ j, v.get j = w.get j) : v = w := by
  obtain ⟨_, _, _, _, _, _, _, _⟩ := v
  obtain ⟨_, _, _, _, _, _, _, _⟩ := w
  have h0 := h 0; have h1 := h 1; have h2 := h 2; have h3 := h 3
  have h4 := h 4; have h5 := h 5; have h6 := h 6; have h7 := h 7
  simp only [Eight.get] at h0 h1 h2 h3 h4 h5 h6 h7
  simp_all

theorem Four.ext_get {v w : Four α} (h : ∀ i, v.get i = w.get i) : v = w := by
  obtain ⟨_, _, _, _⟩ := v
  obtain ⟨_, _, _, _⟩ := w
  have h0 := h 0; have h1 := h 1; have h2 := h 2; have h3 := h 3
  simp only [Four.get] at h0 h1 h2 h3
  simp_all

@[simp] theorem Eight.get_set_same (v : Eight α) (j : Fin 8) (x : α) : (v.set j x).get j = x := by
  fin_cases j <;> rfl

theorem Eight.get_set_other (v : Eight α) {j k : Fin 8} (x : α) (h : k ≠ j) : (v.set j x).get k = v.get k := by
  fin_cases j <;> fin_cases k <;> first | rfl | exact absurd rfl h

@[simp] theorem Eight.get_ofFn (f : Fin 8 → α) (j : Fin 8) : (Eight.ofFn f).get j = f j := by
  fin_cases j <;> rfl

@[simp] theorem Eight.get_const (x : α) (j : Fin 8) : (Eight.const x).get j = x := by
  fin_cases j <;> rfl

theorem Eight.all_iff (v : Eight Bool) : v.all = true ↔ ∀ j, v.get j = true := by
  constructor
  · intro h j
    simp only [Eight.all, Bool.and_eq_true] at h
    obtain ⟨⟨⟨⟨⟨⟨⟨h0, h1⟩, h2⟩, h3⟩, h4⟩, h5⟩, h6⟩, h7⟩ := h
    fin_cases j <;> assumption
  · intro h
    have h0 := h 0; have h1 := h 1; have h2 := h 2; have h3 := h 3
    have h4 := h 4; have h5 := h 5; have h6 := h 6; have h7 := h 7
    simp only [Eight.get] at h0 h1 h2 h3 h4 h5 h6 h7
    simp [Eight.all, *]

@[simp] theorem Eight.all_const_true : (Eight.const true).all = true := rfl

@[simp] theorem Eight.length_toList (v : Eight α) : v.toList.length = 8 := rfl

@[simp] theorem Four.get_set_same (v : Four α) (i : DReg) (x : α) : (v.set i x).get i = x := by
  fin_cases i <;> rfl

theorem Four.get_set_other (v : Four α) {i k : DReg} (x : α) (h : k ≠ i) : (v.set i x).get k = v.get k := by
  fin_cases i <;> fin_cases k <;> first | rfl | exact absurd rfl h

@[simp] theorem Four.get_const (x : α) (i : DReg) : (Four.const x).get i = x := by
  fin_cases i <;> rfl

/-- A sum over the eight lanes, written out. -/
theorem sum_finRange_eight (f : Fin 8 → Nat) :
    ((List.finRange 8).map f).sum = f 0 + f 1 + f 2 + f 3 + f 4 + f 5 + f 6 + f 7 := by
  simp [List.finRange, List.ofFn, Fin.foldr, Fin.foldr.loop]; omega

@[simp] theorem length_wordBytes (w : Word) : (wordBytes w).length = 4 := rfl

theorem length_beBytes (ws : List Word) : (beBytes ws).length = 4 * ws.length := by
  induction ws with
  | nil => rfl
  | cons w ws ih =>
    have h : beBytes (w :: ws) = wordBytes w ++ beBytes ws := rfl
    rw [h, List.length_append, ih, length_wordBytes, List.length_cons]
    omega

@[simp] theorem length_byteView (d : Digest) : (byteView d).length = 32 := rfl

end Sys2Proof.Machine
end

