-- ==== Sys2Proof/Laws/State.lean ====
section
/-! SUPPORT. One lemma for each field of State under each update, each true by rfl, so that no proof unfolds a
record update; and the same for raising an error. -/

namespace Sys2Proof.Machine

variable (s : State)

@[simp] theorem State.writeDigest_params (r : DReg) (d : Digest) : (s.writeDigest r d).params = s.params := rfl
@[simp] theorem State.writeDigest_dr (r : DReg) (d : Digest) : (s.writeDigest r d).dr = s.dr.set r d := rfl
@[simp] theorem State.writeDigest_drWritten (r : DReg) (d : Digest) : (s.writeDigest r d).drWritten = s.drWritten.set r (Eight.const true) := rfl
@[simp] theorem State.writeDigest_ir (r : DReg) (d : Digest) : (s.writeDigest r d).ir = s.ir := rfl
@[simp] theorem State.writeDigest_irWritten (r : DReg) (d : Digest) : (s.writeDigest r d).irWritten = s.irWritten := rfl
@[simp] theorem State.writeDigest_msg (r : DReg) (d : Digest) : (s.writeDigest r d).msg = s.msg := rfl
@[simp] theorem State.writeDigest_t (r : DReg) (d : Digest) : (s.writeDigest r d).t = s.t := rfl
@[simp] theorem State.writeDigest_eq (r : DReg) (d : Digest) : (s.writeDigest r d).eq = s.eq := rfl
@[simp] theorem State.writeDigest_err (r : DReg) (d : Digest) : (s.writeDigest r d).err = s.err := rfl
@[simp] theorem State.writeDigest_errcode (r : DReg) (d : Digest) : (s.writeDigest r d).errcode = s.errcode := rfl
@[simp] theorem State.writeDigest_inflight (r : DReg) (d : Digest) : (s.writeDigest r d).inflight = s.inflight := rfl
@[simp] theorem State.writeDigest_port (r : DReg) (d : Digest) : (s.writeDigest r d).port = s.port := rfl
@[simp] theorem State.writeDigest_turns (r : DReg) (d : Digest) : (s.writeDigest r d).turns = s.turns := rfl
@[simp] theorem State.writeDigest_returned (r : DReg) (d : Digest) : (s.writeDigest r d).returned = s.returned := rfl

@[simp] theorem State.writeIr_params (n : Limbs) : (s.writeIr n).params = s.params := rfl
@[simp] theorem State.writeIr_dr (n : Limbs) : (s.writeIr n).dr = s.dr := rfl
@[simp] theorem State.writeIr_drWritten (n : Limbs) : (s.writeIr n).drWritten = s.drWritten := rfl
@[simp] theorem State.writeIr_ir (n : Limbs) : (s.writeIr n).ir = n := rfl
@[simp] theorem State.writeIr_irWritten (n : Limbs) : (s.writeIr n).irWritten = Eight.const true := rfl
@[simp] theorem State.writeIr_msg (n : Limbs) : (s.writeIr n).msg = s.msg := rfl
@[simp] theorem State.writeIr_t (n : Limbs) : (s.writeIr n).t = s.t := rfl
@[simp] theorem State.writeIr_eq (n : Limbs) : (s.writeIr n).eq = s.eq := rfl
@[simp] theorem State.writeIr_err (n : Limbs) : (s.writeIr n).err = s.err := rfl
@[simp] theorem State.writeIr_errcode (n : Limbs) : (s.writeIr n).errcode = s.errcode := rfl
@[simp] theorem State.writeIr_inflight (n : Limbs) : (s.writeIr n).inflight = s.inflight := rfl
@[simp] theorem State.writeIr_port (n : Limbs) : (s.writeIr n).port = s.port := rfl
@[simp] theorem State.writeIr_turns (n : Limbs) : (s.writeIr n).turns = s.turns := rfl
@[simp] theorem State.writeIr_returned (n : Limbs) : (s.writeIr n).returned = s.returned := rfl

@[simp] theorem State.writeDigestWord_params (i : DReg) (j : Fin 8) (v : Word) : (s.writeDigestWord i j v).params = s.params := rfl
@[simp] theorem State.writeDigestWord_dr (i : DReg) (j : Fin 8) (v : Word) : (s.writeDigestWord i j v).dr = s.dr.set i ((s.dr.get i).set j v) := rfl
@[simp] theorem State.writeDigestWord_drWritten (i : DReg) (j : Fin 8) (v : Word) : (s.writeDigestWord i j v).drWritten = s.drWritten.set i ((s.drWritten.get i).set j true) := rfl
@[simp] theorem State.writeDigestWord_ir (i : DReg) (j : Fin 8) (v : Word) : (s.writeDigestWord i j v).ir = s.ir := rfl
@[simp] theorem State.writeDigestWord_irWritten (i : DReg) (j : Fin 8) (v : Word) : (s.writeDigestWord i j v).irWritten = s.irWritten := rfl
@[simp] theorem State.writeDigestWord_msg (i : DReg) (j : Fin 8) (v : Word) : (s.writeDigestWord i j v).msg = s.msg := rfl
@[simp] theorem State.writeDigestWord_t (i : DReg) (j : Fin 8) (v : Word) : (s.writeDigestWord i j v).t = s.t := rfl
@[simp] theorem State.writeDigestWord_eq (i : DReg) (j : Fin 8) (v : Word) : (s.writeDigestWord i j v).eq = s.eq := rfl
@[simp] theorem State.writeDigestWord_err (i : DReg) (j : Fin 8) (v : Word) : (s.writeDigestWord i j v).err = s.err := rfl
@[simp] theorem State.writeDigestWord_errcode (i : DReg) (j : Fin 8) (v : Word) : (s.writeDigestWord i j v).errcode = s.errcode := rfl
@[simp] theorem State.writeDigestWord_inflight (i : DReg) (j : Fin 8) (v : Word) : (s.writeDigestWord i j v).inflight = s.inflight := rfl
@[simp] theorem State.writeDigestWord_port (i : DReg) (j : Fin 8) (v : Word) : (s.writeDigestWord i j v).port = s.port := rfl
@[simp] theorem State.writeDigestWord_turns (i : DReg) (j : Fin 8) (v : Word) : (s.writeDigestWord i j v).turns = s.turns := rfl
@[simp] theorem State.writeDigestWord_returned (i : DReg) (j : Fin 8) (v : Word) : (s.writeDigestWord i j v).returned = s.returned := rfl

@[simp] theorem State.writeLimb_params (k : Fin 8) (v : Word) : (s.writeLimb k v).params = s.params := rfl
@[simp] theorem State.writeLimb_dr (k : Fin 8) (v : Word) : (s.writeLimb k v).dr = s.dr := rfl
@[simp] theorem State.writeLimb_drWritten (k : Fin 8) (v : Word) : (s.writeLimb k v).drWritten = s.drWritten := rfl
@[simp] theorem State.writeLimb_ir (k : Fin 8) (v : Word) : (s.writeLimb k v).ir = s.ir.set k v := rfl
@[simp] theorem State.writeLimb_irWritten (k : Fin 8) (v : Word) : (s.writeLimb k v).irWritten = s.irWritten.set k true := rfl
@[simp] theorem State.writeLimb_msg (k : Fin 8) (v : Word) : (s.writeLimb k v).msg = s.msg := rfl
@[simp] theorem State.writeLimb_t (k : Fin 8) (v : Word) : (s.writeLimb k v).t = s.t := rfl
@[simp] theorem State.writeLimb_eq (k : Fin 8) (v : Word) : (s.writeLimb k v).eq = s.eq := rfl
@[simp] theorem State.writeLimb_err (k : Fin 8) (v : Word) : (s.writeLimb k v).err = s.err := rfl
@[simp] theorem State.writeLimb_errcode (k : Fin 8) (v : Word) : (s.writeLimb k v).errcode = s.errcode := rfl
@[simp] theorem State.writeLimb_inflight (k : Fin 8) (v : Word) : (s.writeLimb k v).inflight = s.inflight := rfl
@[simp] theorem State.writeLimb_port (k : Fin 8) (v : Word) : (s.writeLimb k v).port = s.port := rfl
@[simp] theorem State.writeLimb_turns (k : Fin 8) (v : Word) : (s.writeLimb k v).turns = s.turns := rfl
@[simp] theorem State.writeLimb_returned (k : Fin 8) (v : Word) : (s.writeLimb k v).returned = s.returned := rfl

@[simp] theorem State.appendMsg_params (b : List Byte) : (s.appendMsg b).params = s.params := rfl
@[simp] theorem State.appendMsg_dr (b : List Byte) : (s.appendMsg b).dr = s.dr := rfl
@[simp] theorem State.appendMsg_drWritten (b : List Byte) : (s.appendMsg b).drWritten = s.drWritten := rfl
@[simp] theorem State.appendMsg_ir (b : List Byte) : (s.appendMsg b).ir = s.ir := rfl
@[simp] theorem State.appendMsg_irWritten (b : List Byte) : (s.appendMsg b).irWritten = s.irWritten := rfl
@[simp] theorem State.appendMsg_msg (b : List Byte) : (s.appendMsg b).msg = s.msg ++ b := rfl
@[simp] theorem State.appendMsg_t (b : List Byte) : (s.appendMsg b).t = s.t := rfl
@[simp] theorem State.appendMsg_eq (b : List Byte) : (s.appendMsg b).eq = s.eq := rfl
@[simp] theorem State.appendMsg_err (b : List Byte) : (s.appendMsg b).err = s.err := rfl
@[simp] theorem State.appendMsg_errcode (b : List Byte) : (s.appendMsg b).errcode = s.errcode := rfl
@[simp] theorem State.appendMsg_inflight (b : List Byte) : (s.appendMsg b).inflight = s.inflight := rfl
@[simp] theorem State.appendMsg_port (b : List Byte) : (s.appendMsg b).port = s.port := rfl
@[simp] theorem State.appendMsg_turns (b : List Byte) : (s.appendMsg b).turns = s.turns := rfl
@[simp] theorem State.appendMsg_returned (b : List Byte) : (s.appendMsg b).returned = s.returned := rfl

@[simp] theorem State.clearMsg_params : (s.clearMsg).params = s.params := rfl
@[simp] theorem State.clearMsg_dr : (s.clearMsg).dr = s.dr := rfl
@[simp] theorem State.clearMsg_drWritten : (s.clearMsg).drWritten = s.drWritten := rfl
@[simp] theorem State.clearMsg_ir : (s.clearMsg).ir = s.ir := rfl
@[simp] theorem State.clearMsg_irWritten : (s.clearMsg).irWritten = s.irWritten := rfl
@[simp] theorem State.clearMsg_msg : (s.clearMsg).msg = [] := rfl
@[simp] theorem State.clearMsg_t : (s.clearMsg).t = s.t := rfl
@[simp] theorem State.clearMsg_eq : (s.clearMsg).eq = s.eq := rfl
@[simp] theorem State.clearMsg_err : (s.clearMsg).err = s.err := rfl
@[simp] theorem State.clearMsg_errcode : (s.clearMsg).errcode = s.errcode := rfl
@[simp] theorem State.clearMsg_inflight : (s.clearMsg).inflight = s.inflight := rfl
@[simp] theorem State.clearMsg_port : (s.clearMsg).port = s.port := rfl
@[simp] theorem State.clearMsg_turns : (s.clearMsg).turns = s.turns := rfl
@[simp] theorem State.clearMsg_returned : (s.clearMsg).returned = s.returned := rfl

@[simp] theorem State.writeT_params (x : Digest) : (s.writeT x).params = s.params := rfl
@[simp] theorem State.writeT_dr (x : Digest) : (s.writeT x).dr = s.dr := rfl
@[simp] theorem State.writeT_drWritten (x : Digest) : (s.writeT x).drWritten = s.drWritten := rfl
@[simp] theorem State.writeT_ir (x : Digest) : (s.writeT x).ir = s.ir := rfl
@[simp] theorem State.writeT_irWritten (x : Digest) : (s.writeT x).irWritten = s.irWritten := rfl
@[simp] theorem State.writeT_msg (x : Digest) : (s.writeT x).msg = s.msg := rfl
@[simp] theorem State.writeT_t (x : Digest) : (s.writeT x).t = x := rfl
@[simp] theorem State.writeT_eq (x : Digest) : (s.writeT x).eq = s.eq := rfl
@[simp] theorem State.writeT_err (x : Digest) : (s.writeT x).err = s.err := rfl
@[simp] theorem State.writeT_errcode (x : Digest) : (s.writeT x).errcode = s.errcode := rfl
@[simp] theorem State.writeT_inflight (x : Digest) : (s.writeT x).inflight = s.inflight := rfl
@[simp] theorem State.writeT_port (x : Digest) : (s.writeT x).port = s.port := rfl
@[simp] theorem State.writeT_turns (x : Digest) : (s.writeT x).turns = s.turns := rfl
@[simp] theorem State.writeT_returned (x : Digest) : (s.writeT x).returned = s.returned := rfl

@[simp] theorem State.writeEq_params (b : Bool) : (s.writeEq b).params = s.params := rfl
@[simp] theorem State.writeEq_dr (b : Bool) : (s.writeEq b).dr = s.dr := rfl
@[simp] theorem State.writeEq_drWritten (b : Bool) : (s.writeEq b).drWritten = s.drWritten := rfl
@[simp] theorem State.writeEq_ir (b : Bool) : (s.writeEq b).ir = s.ir := rfl
@[simp] theorem State.writeEq_irWritten (b : Bool) : (s.writeEq b).irWritten = s.irWritten := rfl
@[simp] theorem State.writeEq_msg (b : Bool) : (s.writeEq b).msg = s.msg := rfl
@[simp] theorem State.writeEq_t (b : Bool) : (s.writeEq b).t = s.t := rfl
@[simp] theorem State.writeEq_eq (b : Bool) : (s.writeEq b).eq = b := rfl
@[simp] theorem State.writeEq_err (b : Bool) : (s.writeEq b).err = s.err := rfl
@[simp] theorem State.writeEq_errcode (b : Bool) : (s.writeEq b).errcode = s.errcode := rfl
@[simp] theorem State.writeEq_inflight (b : Bool) : (s.writeEq b).inflight = s.inflight := rfl
@[simp] theorem State.writeEq_port (b : Bool) : (s.writeEq b).port = s.port := rfl
@[simp] theorem State.writeEq_turns (b : Bool) : (s.writeEq b).turns = s.turns := rfl
@[simp] theorem State.writeEq_returned (b : Bool) : (s.writeEq b).returned = s.returned := rfl

@[simp] theorem State.clearErrors_params : (s.clearErrors).params = s.params := rfl
@[simp] theorem State.clearErrors_dr : (s.clearErrors).dr = s.dr := rfl
@[simp] theorem State.clearErrors_drWritten : (s.clearErrors).drWritten = s.drWritten := rfl
@[simp] theorem State.clearErrors_ir : (s.clearErrors).ir = s.ir := rfl
@[simp] theorem State.clearErrors_irWritten : (s.clearErrors).irWritten = s.irWritten := rfl
@[simp] theorem State.clearErrors_msg : (s.clearErrors).msg = s.msg := rfl
@[simp] theorem State.clearErrors_t : (s.clearErrors).t = s.t := rfl
@[simp] theorem State.clearErrors_eq : (s.clearErrors).eq = s.eq := rfl
@[simp] theorem State.clearErrors_err : (s.clearErrors).err = false := rfl
@[simp] theorem State.clearErrors_errcode : (s.clearErrors).errcode = 0 := rfl
@[simp] theorem State.clearErrors_inflight : (s.clearErrors).inflight = s.inflight := rfl
@[simp] theorem State.clearErrors_port : (s.clearErrors).port = s.port := rfl
@[simp] theorem State.clearErrors_turns : (s.clearErrors).turns = s.turns := rfl
@[simp] theorem State.clearErrors_returned : (s.clearErrors).returned = s.returned := rfl

@[simp] theorem State.softReset_params : (s.softReset).params = s.params := rfl
@[simp] theorem State.softReset_dr : (s.softReset).dr = s.dr := rfl
@[simp] theorem State.softReset_drWritten : (s.softReset).drWritten = s.drWritten := rfl
@[simp] theorem State.softReset_ir : (s.softReset).ir = s.ir := rfl
@[simp] theorem State.softReset_irWritten : (s.softReset).irWritten = s.irWritten := rfl
@[simp] theorem State.softReset_msg : (s.softReset).msg = [] := rfl
@[simp] theorem State.softReset_t : (s.softReset).t = s.t := rfl
@[simp] theorem State.softReset_eq : (s.softReset).eq = false := rfl
@[simp] theorem State.softReset_err : (s.softReset).err = false := rfl
@[simp] theorem State.softReset_errcode : (s.softReset).errcode = 0 := rfl
@[simp] theorem State.softReset_inflight : (s.softReset).inflight = none := rfl
@[simp] theorem State.softReset_port : (s.softReset).port = s.port := rfl
@[simp] theorem State.softReset_turns : (s.softReset).turns = s.turns := rfl
@[simp] theorem State.softReset_returned : (s.softReset).returned = s.returned := rfl

@[simp] theorem State.latch_params (i : Instr) : (s.latch i).params = s.params := rfl
@[simp] theorem State.latch_dr (i : Instr) : (s.latch i).dr = s.dr := rfl
@[simp] theorem State.latch_drWritten (i : Instr) : (s.latch i).drWritten = s.drWritten := rfl
@[simp] theorem State.latch_ir (i : Instr) : (s.latch i).ir = s.ir := rfl
@[simp] theorem State.latch_irWritten (i : Instr) : (s.latch i).irWritten = s.irWritten := rfl
@[simp] theorem State.latch_msg (i : Instr) : (s.latch i).msg = s.msg := rfl
@[simp] theorem State.latch_t (i : Instr) : (s.latch i).t = s.t := rfl
@[simp] theorem State.latch_eq (i : Instr) : (s.latch i).eq = s.eq := rfl
@[simp] theorem State.latch_err (i : Instr) : (s.latch i).err = s.err := rfl
@[simp] theorem State.latch_errcode (i : Instr) : (s.latch i).errcode = s.errcode := rfl
@[simp] theorem State.latch_inflight (i : Instr) : (s.latch i).inflight = some i := rfl
@[simp] theorem State.latch_port (i : Instr) : (s.latch i).port = s.port := rfl
@[simp] theorem State.latch_turns (i : Instr) : (s.latch i).turns = s.turns := rfl
@[simp] theorem State.latch_returned (i : Instr) : (s.latch i).returned = s.returned := rfl

@[simp] theorem State.retire_params : (s.retire).params = s.params := rfl
@[simp] theorem State.retire_dr : (s.retire).dr = s.dr := rfl
@[simp] theorem State.retire_drWritten : (s.retire).drWritten = s.drWritten := rfl
@[simp] theorem State.retire_ir : (s.retire).ir = s.ir := rfl
@[simp] theorem State.retire_irWritten : (s.retire).irWritten = s.irWritten := rfl
@[simp] theorem State.retire_msg : (s.retire).msg = s.msg := rfl
@[simp] theorem State.retire_t : (s.retire).t = s.t := rfl
@[simp] theorem State.retire_eq : (s.retire).eq = s.eq := rfl
@[simp] theorem State.retire_err : (s.retire).err = s.err := rfl
@[simp] theorem State.retire_errcode : (s.retire).errcode = s.errcode := rfl
@[simp] theorem State.retire_inflight : (s.retire).inflight = none := rfl
@[simp] theorem State.retire_port : (s.retire).port = s.port := rfl
@[simp] theorem State.retire_turns : (s.retire).turns = s.turns := rfl
@[simp] theorem State.retire_returned : (s.retire).returned = s.returned := rfl

@[simp] theorem State.deliver_params (v : Word) : (s.deliver v).params = s.params := rfl
@[simp] theorem State.deliver_dr (v : Word) : (s.deliver v).dr = s.dr := rfl
@[simp] theorem State.deliver_drWritten (v : Word) : (s.deliver v).drWritten = s.drWritten := rfl
@[simp] theorem State.deliver_ir (v : Word) : (s.deliver v).ir = s.ir := rfl
@[simp] theorem State.deliver_irWritten (v : Word) : (s.deliver v).irWritten = s.irWritten := rfl
@[simp] theorem State.deliver_msg (v : Word) : (s.deliver v).msg = s.msg := rfl
@[simp] theorem State.deliver_t (v : Word) : (s.deliver v).t = s.t := rfl
@[simp] theorem State.deliver_eq (v : Word) : (s.deliver v).eq = s.eq := rfl
@[simp] theorem State.deliver_err (v : Word) : (s.deliver v).err = s.err := rfl
@[simp] theorem State.deliver_errcode (v : Word) : (s.deliver v).errcode = s.errcode := rfl
@[simp] theorem State.deliver_inflight (v : Word) : (s.deliver v).inflight = s.inflight := rfl
@[simp] theorem State.deliver_port (v : Word) : (s.deliver v).port = s.port := rfl
@[simp] theorem State.deliver_turns (v : Word) : (s.deliver v).turns = s.turns := rfl
@[simp] theorem State.deliver_returned (v : Word) : (s.deliver v).returned = v :: s.returned := rfl

@[simp] theorem State.popPort_params : (s.popPort).params = s.params := rfl
@[simp] theorem State.popPort_dr : (s.popPort).dr = s.dr := rfl
@[simp] theorem State.popPort_drWritten : (s.popPort).drWritten = s.drWritten := rfl
@[simp] theorem State.popPort_ir : (s.popPort).ir = s.ir := rfl
@[simp] theorem State.popPort_irWritten : (s.popPort).irWritten = s.irWritten := rfl
@[simp] theorem State.popPort_msg : (s.popPort).msg = s.msg := rfl
@[simp] theorem State.popPort_t : (s.popPort).t = s.t := rfl
@[simp] theorem State.popPort_eq : (s.popPort).eq = s.eq := rfl
@[simp] theorem State.popPort_err : (s.popPort).err = s.err := rfl
@[simp] theorem State.popPort_errcode : (s.popPort).errcode = s.errcode := rfl
@[simp] theorem State.popPort_inflight : (s.popPort).inflight = s.inflight := rfl
@[simp] theorem State.popPort_port : (s.popPort).port = s.port.tail := rfl
@[simp] theorem State.popPort_turns : (s.popPort).turns = s.turns := rfl
@[simp] theorem State.popPort_returned : (s.popPort).returned = s.returned := rfl

@[simp] theorem State.popTurn_params : (s.popTurn).params = s.params := rfl
@[simp] theorem State.popTurn_dr : (s.popTurn).dr = s.dr := rfl
@[simp] theorem State.popTurn_drWritten : (s.popTurn).drWritten = s.drWritten := rfl
@[simp] theorem State.popTurn_ir : (s.popTurn).ir = s.ir := rfl
@[simp] theorem State.popTurn_irWritten : (s.popTurn).irWritten = s.irWritten := rfl
@[simp] theorem State.popTurn_msg : (s.popTurn).msg = s.msg := rfl
@[simp] theorem State.popTurn_t : (s.popTurn).t = s.t := rfl
@[simp] theorem State.popTurn_eq : (s.popTurn).eq = s.eq := rfl
@[simp] theorem State.popTurn_err : (s.popTurn).err = s.err := rfl
@[simp] theorem State.popTurn_errcode : (s.popTurn).errcode = s.errcode := rfl
@[simp] theorem State.popTurn_inflight : (s.popTurn).inflight = s.inflight := rfl
@[simp] theorem State.popTurn_port : (s.popTurn).port = s.port := rfl
@[simp] theorem State.popTurn_turns : (s.popTurn).turns = s.turns.tail := rfl
@[simp] theorem State.popTurn_returned : (s.popTurn).returned = s.returned := rfl

@[simp] theorem State.raiseError_params (c : ErrorCode) : (s.raiseError c).params = s.params := by
  unfold State.raiseError; split <;> rfl
@[simp] theorem State.raiseError_dr (c : ErrorCode) : (s.raiseError c).dr = s.dr := by
  unfold State.raiseError; split <;> rfl
@[simp] theorem State.raiseError_drWritten (c : ErrorCode) : (s.raiseError c).drWritten = s.drWritten := by
  unfold State.raiseError; split <;> rfl
@[simp] theorem State.raiseError_ir (c : ErrorCode) : (s.raiseError c).ir = s.ir := by
  unfold State.raiseError; split <;> rfl
@[simp] theorem State.raiseError_irWritten (c : ErrorCode) : (s.raiseError c).irWritten = s.irWritten := by
  unfold State.raiseError; split <;> rfl
@[simp] theorem State.raiseError_msg (c : ErrorCode) : (s.raiseError c).msg = s.msg := by
  unfold State.raiseError; split <;> rfl
@[simp] theorem State.raiseError_t (c : ErrorCode) : (s.raiseError c).t = s.t := by
  unfold State.raiseError; split <;> rfl
@[simp] theorem State.raiseError_eq (c : ErrorCode) : (s.raiseError c).eq = s.eq := by
  unfold State.raiseError; split <;> rfl
@[simp] theorem State.raiseError_inflight (c : ErrorCode) : (s.raiseError c).inflight = s.inflight := by
  unfold State.raiseError; split <;> rfl
@[simp] theorem State.raiseError_port (c : ErrorCode) : (s.raiseError c).port = s.port := by
  unfold State.raiseError; split <;> rfl
@[simp] theorem State.raiseError_turns (c : ErrorCode) : (s.raiseError c).turns = s.turns := by
  unfold State.raiseError; split <;> rfl
@[simp] theorem State.raiseError_returned (c : ErrorCode) : (s.raiseError c).returned = s.returned := by
  unfold State.raiseError; split <;> rfl
@[simp] theorem State.raiseError_err (c : ErrorCode) : (s.raiseError c).err = true := by
  unfold State.raiseError; split <;> simp_all
@[simp] theorem State.raiseError_errcode (c : ErrorCode) :
    (s.raiseError c).errcode = if s.err then s.errcode else c.code := by
  unfold State.raiseError; split <;> rfl

end Sys2Proof.Machine
end

