-- ==== Sys2Proof/Laws/Ops.lean ====
section
/-! SUPPORT. What each shared operation can do, said once, so that later proofs cite it. -/

namespace Sys2Proof.Machine

/-- Going on with an operand answers a next state only if the operand could be read. -/
theorem withOperand_next {α : Type} {x : Except Fault α} {k : α → Result} {s' : State}
    (h : withOperand x k = .next s') : ∃ a, x = .ok a ∧ k a = .next s' := by
  cases x with
  | ok a => exact ⟨a, rfl, h⟩
  | error f => cases h

/-- Going on with an operand stops at the operand's fault or at a later one. -/
theorem withOperand_fault {α : Type} {x : Except Fault α} {k : α → Result} {f : Fault}
    (h : withOperand x k = .fault f) : x = .error f ∨ ∃ a, x = .ok a ∧ k a = .fault f := by
  cases x with
  | ok a => exact .inr ⟨a, rfl, h⟩
  | error e => exact .inl (congrArg _ (Host.Outcome.fault.inj h))

@[simp] theorem withOperand_ok {α : Type} (a : α) (k : α → Result) : withOperand (.ok a) k = k a := rfl

@[simp] theorem withOperand_error {α : Type} (f : Fault) (k : α → Result) :
    withOperand (.error f) k = .fault f := rfl

/-- A digest register has been written exactly when each of its words has. -/
theorem State.digestWritten_iff (s : State) (r : DReg) :
    s.digestWritten r = true ↔ ∀ j, (s.drWritten.get r).get j = true := Eight.all_iff _

/-- IR has been written exactly when each of its limbs has. -/
theorem State.limbsWritten_iff (s : State) : s.limbsWritten = true ↔ ∀ k, s.irWritten.get k = true :=
  Eight.all_iff _

/-- A host read gives a data word exactly if it has been written. -/
@[simp] theorem readData_true (v : Word) : readData true v = .ok v := rfl
@[simp] theorem readData_false (v : Word) : readData false v = .error .unwrittenRead := rfl

theorem State.wouldOverflow_iff (s : State) (n : Nat) :
    s.wouldOverflow n = true ↔ s.params.msgCap < s.msg.length + n := by
  simp [State.wouldOverflow]

/-- A digest operand is the register's content, when it has been written. -/
theorem State.digestOperand_ok {s : State} {r : DReg} {d : Digest} (h : s.digestOperand r = .ok d) :
    s.digestWritten r = true ∧ d = s.dr.get r := by
  unfold State.digestOperand at h
  split at h
  · next hu => exact ⟨hu, (Except.ok.inj h).symm⟩
  · cases h

theorem State.digestOperand_of_written {s : State} {r : DReg} (h : s.digestWritten r = true) :
    s.digestOperand r = .ok (s.dr.get r) := by
  simp [State.digestOperand, h]

theorem State.digestOperand_of_not_written {s : State} {r : DReg} (h : s.digestWritten r = false) :
    s.digestOperand r = .error .unwrittenOperand := by
  simp [State.digestOperand, h]

/-- The integer operand is the content of IR, when it has been written. -/
theorem State.irOperand_ok {s : State} {l : Limbs} (h : s.irOperand = .ok l) :
    s.limbsWritten = true ∧ l = s.ir := by
  unfold State.irOperand at h
  split at h
  · next hu => exact ⟨hu, (Except.ok.inj h).symm⟩
  · cases h

theorem State.irOperand_of_written {s : State} (h : s.limbsWritten = true) : s.irOperand = .ok s.ir := by
  simp [State.irOperand, h]

theorem State.irOperand_of_not_written {s : State} (h : s.limbsWritten = false) :
    s.irOperand = .error .unwrittenOperand := by
  simp [State.irOperand, h]

/-- Going on with a digest operand, said once: with its content, or at the fault if a word is unwritten. -/
theorem State.withDigest (s : State) (r : DReg) (k : Digest → Result) :
    withOperand (s.digestOperand r) k =
      if s.digestWritten r = true then k (s.dr.get r) else .fault .unwrittenOperand := by
  cases h : s.digestWritten r with
  | true => rw [State.digestOperand_of_written h]; rfl
  | false => rw [State.digestOperand_of_not_written h]; rfl

/-- Going on with the integer operand, said once. -/
theorem State.withLimbs (s : State) (k : Limbs → Result) :
    withOperand s.irOperand k = if s.limbsWritten = true then k s.ir else .fault .unwrittenOperand := by
  cases h : s.limbsWritten with
  | true => rw [State.irOperand_of_written h]; rfl
  | false => rw [State.irOperand_of_not_written h]; rfl

/-- Raising an error changes the error fields only, and those only if no error was recorded. -/
theorem State.raiseError_cases (s : State) (c : ErrorCode) :
    (s.err = true ∧ s.raiseError c = s) ∨
      (s.err = false ∧ s.raiseError c = { s with err := true, errcode := c.code }) := by
  unfold State.raiseError
  cases h : s.err <;> simp

/-- A push appends every byte and stays within the capacity, or it appends none (41_message_input.md R162). -/
theorem State.pushBytes_cases (s : State) (bytes : List Byte) :
    (s.msgLen + bytes.length ≤ s.params.msgCap ∧ s.pushBytes bytes = s.appendMsg bytes) ∨
      (s.params.msgCap < s.msgLen + bytes.length ∧ s.pushBytes bytes = s.raiseError .msgOverflow) := by
  unfold State.pushBytes State.wouldOverflow
  by_cases h : s.params.msgCap < s.msgLen + bytes.length
  · right; exact ⟨h, by simp [h]⟩
  · left; exact ⟨by omega, by simp [h]⟩

/-- A push keeps MSG_LEN within `MSG_CAP_BYTES` (10_state.md R34). -/
theorem State.pushBytes_fits {s : State} (h : s.msgLen ≤ s.params.msgCap) (bytes : List Byte) :
    (s.pushBytes bytes).msgLen ≤ s.params.msgCap := by
  rcases s.pushBytes_cases bytes with ⟨hf, he⟩ | ⟨_, he⟩
  · rw [he]; simpa [State.msgLen] using hf
  · rw [he]; simpa [State.msgLen] using h

/-- What issuing a command word can do (60_exceptions.md R254). -/
theorem State.issue_cases (s : State) (w : Word) :
    (s.busy = true ∧ s.issue w = s.raiseError .busy) ∨
    (s.busy = false ∧ (∃ e, decode w = .error e) ∧ s.issue w = s.raiseError .illegalCmd) ∨
    (s.busy = false ∧ ∃ i c, decode w = .ok i ∧ issueCheck s i = some c ∧ s.issue w = s.raiseError c) ∨
    (s.busy = false ∧ ∃ i, decode w = .ok i ∧ issueCheck s i = none ∧ s.issue w = s.latch i) := by
  unfold State.issue
  cases hb : s.busy with
  | true => simp
  | false =>
    cases hd : decode w with
    | error e => simp
    | ok i => cases hc : issueCheck s i <;> simp [hc]

/-! The commit of a hash command, field by field, for any primitive. Each proof is `(rfl)` and not `rfl`, so that
simp builds a proof term instead of leaving the kernel to compare two states that hold a symbolic hash (it would
unfold SHA-256). Cite these; do not unfold `commitHash`. -/

@[simp] theorem State.commitHash_params (s : State) (H : Primitive) (rd : DReg) (x : Digest) :
    (s.commitHash H rd x).params = s.params := (rfl)
@[simp] theorem State.commitHash_dr (s : State) (H : Primitive) (rd : DReg) (x : Digest) :
    (s.commitHash H rd x).dr = s.dr.set rd (hashWords H x.toList) := (rfl)
@[simp] theorem State.commitHash_drWritten (s : State) (H : Primitive) (rd : DReg) (x : Digest) :
    (s.commitHash H rd x).drWritten = s.drWritten.set rd (Eight.const true) := (rfl)
@[simp] theorem State.commitHash_ir (s : State) (H : Primitive) (rd : DReg) (x : Digest) :
    (s.commitHash H rd x).ir = s.ir := (rfl)
@[simp] theorem State.commitHash_irWritten (s : State) (H : Primitive) (rd : DReg) (x : Digest) :
    (s.commitHash H rd x).irWritten = s.irWritten := (rfl)
@[simp] theorem State.commitHash_msg (s : State) (H : Primitive) (rd : DReg) (x : Digest) :
    (s.commitHash H rd x).msg = s.msg := (rfl)
@[simp] theorem State.commitHash_t (s : State) (H : Primitive) (rd : DReg) (x : Digest) :
    (s.commitHash H rd x).t = x := (rfl)
@[simp] theorem State.commitHash_eq (s : State) (H : Primitive) (rd : DReg) (x : Digest) :
    (s.commitHash H rd x).eq = s.eq := (rfl)
@[simp] theorem State.commitHash_err (s : State) (H : Primitive) (rd : DReg) (x : Digest) :
    (s.commitHash H rd x).err = s.err := (rfl)
@[simp] theorem State.commitHash_errcode (s : State) (H : Primitive) (rd : DReg) (x : Digest) :
    (s.commitHash H rd x).errcode = s.errcode := (rfl)
@[simp] theorem State.commitHash_inflight (s : State) (H : Primitive) (rd : DReg) (x : Digest) :
    (s.commitHash H rd x).inflight = none := (rfl)
@[simp] theorem State.commitHash_port (s : State) (H : Primitive) (rd : DReg) (x : Digest) :
    (s.commitHash H rd x).port = s.port := (rfl)
@[simp] theorem State.commitHash_turns (s : State) (H : Primitive) (rd : DReg) (x : Digest) :
    (s.commitHash H rd x).turns = s.turns := (rfl)
@[simp] theorem State.commitHash_returned (s : State) (H : Primitive) (rd : DReg) (x : Digest) :
    (s.commitHash H rd x).returned = s.returned := (rfl)

/-- What a completion can do: each command's next state, with the condition on its operands. -/
theorem exec_next_cases {i : Instr} {s t : State} (h : exec i s = .next t) :
    (i = .msgClear ∧ t = s.clearMsg.retire) ∨
    (∃ r, i = .msgAppd r ∧ s.digestWritten r = true ∧ t = (s.appendMsg (byteView (s.dr.get r))).retire) ∨
    (∃ rd, i = .dhBytes rd ∧ t = s.commitHash sha256 rd (sha256 s.msg)) ∨
    (∃ rd, i = .dhWords rd ∧ t = s.commitHash sha256 rd (hashWords sha256 s.messageWords)) ∨
    (∃ rd a b, i = .dhParent rd a b ∧ s.digestWritten a = true ∧ s.digestWritten b = true ∧
      t = s.commitHash sha256 rd (hashWords sha256 ((s.dr.get a).toList ++ (s.dr.get b).toList))) ∨
    (∃ r, i = .cvToint r ∧ s.digestWritten r = true ∧ t = (s.writeIr (transpose (s.dr.get r))).retire) ∨
    (∃ rd, i = .cvFromint rd ∧ s.limbsWritten = true ∧ t = (s.writeDigest rd (transpose s.ir)).retire) ∨
    (∃ a b, i = .cvCmpeq a b ∧ s.digestWritten a = true ∧ s.digestWritten b = true ∧
      t = (s.writeEq (digestEq (s.dr.get a) (s.dr.get b))).retire) := by
  cases i with
  | msgClear => left; exact ⟨rfl, (Host.Outcome.next.inj h).symm⟩
  | msgAppd r =>
    right; left
    obtain ⟨d, hd, hk⟩ := withOperand_next h
    obtain ⟨hu, rfl⟩ := State.digestOperand_ok hd
    exact ⟨r, rfl, hu, (Host.Outcome.next.inj hk).symm⟩
  | dhBytes rd => right; right; left; exact ⟨rd, rfl, (Host.Outcome.next.inj h).symm⟩
  | dhWords rd => right; right; right; left; exact ⟨rd, rfl, (Host.Outcome.next.inj h).symm⟩
  | dhParent rd a b =>
    right; right; right; right; left
    obtain ⟨l, hl, hk⟩ := withOperand_next h
    obtain ⟨r, hr, hk⟩ := withOperand_next hk
    obtain ⟨hu, rfl⟩ := State.digestOperand_ok hl
    obtain ⟨hv, rfl⟩ := State.digestOperand_ok hr
    exact ⟨rd, a, b, rfl, hu, hv, (Host.Outcome.next.inj hk).symm⟩
  | cvToint r =>
    right; right; right; right; right; left
    obtain ⟨d, hd, hk⟩ := withOperand_next h
    obtain ⟨hu, rfl⟩ := State.digestOperand_ok hd
    exact ⟨r, rfl, hu, (Host.Outcome.next.inj hk).symm⟩
  | cvFromint rd =>
    right; right; right; right; right; right; left
    obtain ⟨l, hl, hk⟩ := withOperand_next h
    obtain ⟨hu, rfl⟩ := State.irOperand_ok hl
    exact ⟨rd, rfl, hu, (Host.Outcome.next.inj hk).symm⟩
  | cvCmpeq a b =>
    right; right; right; right; right; right; right
    obtain ⟨l, hl, hk⟩ := withOperand_next h
    obtain ⟨r, hr, hk⟩ := withOperand_next hk
    obtain ⟨hu, rfl⟩ := State.digestOperand_ok hl
    obtain ⟨hv, rfl⟩ := State.digestOperand_ok hr
    exact ⟨a, b, rfl, hu, hv, (Host.Outcome.next.inj hk).symm⟩

/-- A completion never answers a refusal. -/
theorem exec_not_refused (i : Instr) (s : State) (r : Refusal) : exec i s ≠ .refused r := by
  cases i <;> simp only [exec, execMsgClear, execMsgAppd, execDhBytes, execDhWords, execDhParent, State.hashParent,
    execCvToint, execCvFromint, execCvCmpeq, withOperand] <;> (repeat' split) <;> simp

/-- A write that the block accepts or drops: which of the branches of 20_memory.md R75 it took. -/
theorem State.writeTarget_cases (s : State) (t : Target) (v : Word) :
    (t.rejectsWrite = true ∧ s.writeTarget t v = s.raiseError .badAccess) ∨
    (t = .ctrl ∧ s.writeTarget t v = s.ctrlAction v) ∨
    (t.rejectsWrite = false ∧ t ≠ .ctrl ∧ s.busy = true ∧ s.writeTarget t v = s.raiseError .busy) ∨
    (t.rejectsWrite = false ∧ t ≠ .ctrl ∧ s.busy = false ∧ s.writeTarget t v = s.idleWrite v t) := by
  unfold State.writeTarget
  cases hr : t.rejectsWrite with
  | true => simp
  | false =>
    by_cases hc : t = .ctrl
    · right; left; exact ⟨hc, by simp [hc]⟩
    · cases hb : s.busy <;> simp [hc]

/-- An access inside the window, aligned and 32 bits wide, has an offset, and no other access has one. -/
theorem busOffset_eq_some {p : Params} {addr bytes off : Nat} :
    busOffset p addr bytes = some off ↔
      bytes = 4 ∧ off < 4096 ∧ off % 4 = 0 ∧ addr = p.base + off := by
  unfold busOffset windowBytes
  split
  · next h => simp only [Option.some.injEq]; omega
  · next h => simp only [reduceCtorEq, false_iff]; intro hh; apply h; omega

end Sys2Proof.Machine
end

