-- ==== Sys2Proof/Laws/Step.lean ====
section
/-! SUPPORT. What one step can do, said once: its inversion lemma, and how the moving agent is found. -/

namespace Sys2Proof.Machine

@[simp] theorem State.withWritten_params (s : State) (dw : Four (Eight Bool)) (iw : Eight Bool) :
    (s.withWritten dw iw).params = s.params := rfl
@[simp] theorem State.withWritten_dr (s : State) (dw : Four (Eight Bool)) (iw : Eight Bool) :
    (s.withWritten dw iw).dr = s.dr := rfl
@[simp] theorem State.withWritten_drWritten (s : State) (dw : Four (Eight Bool)) (iw : Eight Bool) :
    (s.withWritten dw iw).drWritten = dw := rfl
@[simp] theorem State.withWritten_ir (s : State) (dw : Four (Eight Bool)) (iw : Eight Bool) :
    (s.withWritten dw iw).ir = s.ir := rfl
@[simp] theorem State.withWritten_irWritten (s : State) (dw : Four (Eight Bool)) (iw : Eight Bool) :
    (s.withWritten dw iw).irWritten = iw := rfl
@[simp] theorem State.withWritten_msg (s : State) (dw : Four (Eight Bool)) (iw : Eight Bool) :
    (s.withWritten dw iw).msg = s.msg := rfl
@[simp] theorem State.withWritten_t (s : State) (dw : Four (Eight Bool)) (iw : Eight Bool) :
    (s.withWritten dw iw).t = s.t := rfl
@[simp] theorem State.withWritten_eq (s : State) (dw : Four (Eight Bool)) (iw : Eight Bool) :
    (s.withWritten dw iw).eq = s.eq := rfl
@[simp] theorem State.withWritten_err (s : State) (dw : Four (Eight Bool)) (iw : Eight Bool) :
    (s.withWritten dw iw).err = s.err := rfl
@[simp] theorem State.withWritten_errcode (s : State) (dw : Four (Eight Bool)) (iw : Eight Bool) :
    (s.withWritten dw iw).errcode = s.errcode := rfl
@[simp] theorem State.withWritten_inflight (s : State) (dw : Four (Eight Bool)) (iw : Eight Bool) :
    (s.withWritten dw iw).inflight = s.inflight := rfl
@[simp] theorem State.withWritten_port (s : State) (dw : Four (Eight Bool)) (iw : Eight Bool) :
    (s.withWritten dw iw).port = s.port := rfl
@[simp] theorem State.withWritten_turns (s : State) (dw : Four (Eight Bool)) (iw : Eight Bool) :
    (s.withWritten dw iw).turns = s.turns := rfl
@[simp] theorem State.withWritten_returned (s : State) (dw : Four (Eight Bool)) (iw : Eight Bool) :
    (s.withWritten dw iw).returned = s.returned := rfl

/-- What a completion is, said once: the command's effect, or fault UnwrittenOperand if it reads a word that nothing
has written (10_state.md R44). -/
theorem exec_eq (i : Instr) (s : State) :
    exec i s = if s.operandsWritten i = true then .next (s.completed i) else .fault .unwrittenOperand := by
  cases i with
  | msgClear => rfl
  | dhBytes rd => rfl
  | dhWords rd => rfl
  | msgAppd r => exact s.withDigest r _
  | cvToint r => exact s.withDigest r _
  | cvFromint rd => exact s.withLimbs _
  | cvCmpeq a b =>
    refine (s.withDigest a _).trans ?_
    simp only [State.withDigest, State.operandsWritten, Bool.and_eq_true, ite_and]; rfl
  | dhParent rd a b =>
    refine (s.withDigest a _).trans ?_
    simp only [State.withDigest, State.operandsWritten, Bool.and_eq_true, ite_and]; rfl

/-- A completion that stops does so at the one fault of 10_state.md R44 that names operands. -/
theorem exec_fault {i : Instr} {s : State} {f : Fault} (h : exec i s = .fault f) : f = .unwrittenOperand := by
  rw [exec_eq] at h
  split at h
  · cases h
  · exact (Host.Outcome.fault.inj h).symm

theorem State.busy_iff (s : State) : s.busy = true ↔ s.inflight ≠ none := by
  unfold State.busy
  cases s.inflight <;> simp

theorem State.not_busy_iff (s : State) : s.busy = false ↔ s.inflight = none := by
  unfold State.busy
  cases s.inflight <;> simp

/-- Two digests are equal exactly when all their words are. -/
theorem digestEq_iff (a b : Digest) : digestEq a b = true ↔ ∀ j, a.get j = b.get j := by
  constructor
  · intro h j
    simp [digestEq] at h
    fin_cases j <;> simp_all
  · intro h
    simp [digestEq, h]

/-- With a command in flight a write that is not a soft reset leaves the command and its inputs alone. -/
theorem State.writeTarget_busy {s : State} {i : Instr} (hi : s.inflight = some i) (t : Target) (v : Word)
    (hn : ¬(t = .ctrl ∧ v.getLsbD 0 = true)) :
    s.writeTarget t v = s.ctrlAction 2 ∨ s.writeTarget t v = s ∨ ∃ c, s.writeTarget t v = s.raiseError c := by
  rcases s.writeTarget_cases t v with ⟨_, e⟩ | ⟨rfl, e⟩ | ⟨_, _, _, e⟩ | ⟨_, _, hb, _⟩
  · exact .inr (.inr ⟨_, e⟩)
  · have h0 : v.getLsbD 0 = false := by simpa using hn
    rw [e]
    cases h1 : v.getLsbD 1
    · right; left; unfold State.ctrlAction; rw [h0, h1]; rfl
    · left; unfold State.ctrlAction; rw [h0, h1]; rfl
  · exact .inr (.inr ⟨_, e⟩)
  · rw [s.not_busy_iff, hi] at hb; cases hb

/-- What a write can do to the data: one word of one digest register, one limb, an append or a soft reset's
clearing of the message, each for its own register only. -/
theorem State.writeTarget_data (s : State) (t : Target) (v : Word) :
    ((s.writeTarget t v).dr = s.dr ∧ (s.writeTarget t v).drWritten = s.drWritten ∨
      s.inflight = none ∧ ∃ i j, t = .dr i j ∧ s.writeTarget t v = s.writeDigestWord i j v) ∧
    ((s.writeTarget t v).ir = s.ir ∧ (s.writeTarget t v).irWritten = s.irWritten ∨
      s.inflight = none ∧ ∃ k, t = .ir k ∧ s.writeTarget t v = s.writeLimb k v) ∧
    ((s.writeTarget t v).msg = s.msg ∨
      ((s.writeTarget t v).msg = [] ∧ t = .ctrl ∧ v.getLsbD 0 = true) ∨
      (s.inflight = none ∧ (t = .msgPush8 ∨ t = .msgPush32) ∧
        ∃ bytes, s.writeTarget t v = s.appendMsg bytes ∧ s.msgLen + bytes.length ≤ s.params.msgCap)) ∧
    ((s.writeTarget t v).eq = s.eq ∨ (t = .ctrl ∧ v.getLsbD 0 = true)) ∧
    (s.writeTarget t v).params = s.params := by
  rcases s.writeTarget_cases t v with ⟨_, h⟩ | ⟨rfl, h⟩ | ⟨_, _, _, h⟩ | ⟨hr, hc, hb, h⟩
  · simp [h]
  · rw [h]
    unfold State.ctrlAction
    split
    · simp_all
    · split <;> simp
  · simp [h]
  · have hn := s.not_busy_iff.1 hb
    rw [h]
    cases t <;> simp [Target.rejectsWrite] at hr hc <;> simp only [State.idleWrite, State.push8, State.push32]
    · rcases s.issue_cases v with ⟨_, e⟩ | ⟨_, _, e⟩ | ⟨_, _, _, _, _, e⟩ | ⟨_, _, _, _, e⟩ <;> simp [e]
    · rcases s.pushBytes_cases [v.extractLsb' 0 8] with ⟨hf, e⟩ | ⟨_, e⟩
      · rw [e]
        exact ⟨by simp, by simp, .inr (.inr ⟨hn, by simp, _, rfl, hf⟩), by simp, by simp⟩
      · rw [e]; simp
    · rcases s.pushBytes_cases (wordBytes v) with ⟨hf, e⟩ | ⟨_, e⟩
      · rw [e]
        exact ⟨by simp, by simp, .inr (.inr ⟨hn, by simp, _, rfl, hf⟩), by simp, by simp⟩
      · rw [e]; simp
    · simp [hn]
    · simp [hn]

/-- A read gives a value exactly if what it reaches has its written bit set (10_state.md R44). -/
theorem State.readTarget_of_written {s : State} {q : Target} (h : s.targetWritten q = true) :
    ∃ v, s.readTarget q = .ok v := by
  cases q <;> simp_all [State.targetWritten, State.readTarget]

/-- A read of an unwritten word is `fault UnwrittenRead`, and only the data words have a written bit. -/
theorem State.readTarget_of_not_written {s : State} {q : Target} (h : s.targetWritten q = false) :
    s.readTarget q = .error .unwrittenRead ∧ ((∃ i j, q = .dr i j) ∨ ∃ k, q = .ir k) := by
  cases q <;> simp_all [State.targetWritten, State.readTarget]

/-- The host's accesses and the turns do not change what a register reads as. -/
theorem State.readTarget_congr {s u : State} (hp : u.params = s.params) (hd : u.dr = s.dr)
    (hw : u.drWritten = s.drWritten) (hi : u.ir = s.ir) (hv : u.irWritten = s.irWritten) (hm : u.msg = s.msg)
    (he : u.eq = s.eq) (hr : u.err = s.err) (hc : u.errcode = s.errcode) (hf : u.inflight = s.inflight)
    (t : Target) : u.readTarget t = s.readTarget t := by
  cases t <;> simp [State.readTarget, State.statusWord, State.busy, State.msgLen, *]

/-- What a host turn that answers a next state did. -/
theorem hostTurn_next_cases {s s' : State} (h : hostTurn s = .next s') :
    (s.port = [] ∧ s' = s) ∨
    (∃ addr bytes rest off v, s.port = .read addr bytes :: rest ∧ busOffset s.params addr bytes = some off ∧
      s.popPort.readTarget (targetOf off) = .ok v ∧ s' = s.popPort.deliver v) ∨
    (∃ addr bytes v rest off, s.port = .write addr bytes v :: rest ∧ busOffset s.params addr bytes = some off ∧
      s' = s.popPort.writeTarget (targetOf off) v) ∨
    (∃ rest, s.port = .wait :: rest ∧
      s' = if s.busy then s.deliver s.statusWord else (s.deliver s.statusWord).popPort) := by
  unfold hostTurn at h
  split at h
  · next hp => left; exact ⟨hp, (Host.Outcome.next.inj h).symm⟩
  · next addr bytes rest hp =>
    right; left
    unfold hostRead at h
    split at h
    · cases h
    · next off ho =>
      obtain ⟨v, hv, hk⟩ := withOperand_next h
      exact ⟨addr, bytes, rest, off, v, hp, ho, hv, (Host.Outcome.next.inj hk).symm⟩
  · next addr bytes v rest hp =>
    right; right; left
    unfold hostWrite at h
    split at h
    · cases h
    · next off ho => exact ⟨addr, bytes, v, rest, off, hp, ho, (Host.Outcome.next.inj h).symm⟩
  · next rest hp =>
    right; right; right
    exact ⟨rest, hp, (Host.Outcome.next.inj h).symm⟩

/-- What a step that answers a next state did: a completion, an idle turn of the engine, or a host turn. -/
theorem step_next_cases {s s' : State} (h : step s = .next s') :
    s.params.wf = true ∧
    ((∃ i, s.completes i ∧ exec i s.popTurn = .next s') ∨
     (s.mover = .engine ∧ s.inflight = none ∧ s' = s.popTurn) ∨
     (s.mover = .host ∧ hostTurn s.popTurn = .next s')) := by
  unfold step at h
  split at h
  · next hwf =>
    refine ⟨hwf, ?_⟩
    split at h
    · next hm =>
      unfold engineTurn at h
      split at h
      · next i hi => left; exact ⟨i, ⟨hm, by simpa using hi⟩, h⟩
      · next hi => right; left; exact ⟨hm, by simpa using hi, (Host.Outcome.next.inj h).symm⟩
    · next hm => right; right; exact ⟨hm, h⟩
  · cases h

/-- A completion retires its command. -/
theorem exec_retires {i : Instr} {s t : State} (h : exec i s = .next t) : t.inflight = none := by
  rcases exec_next_cases h with ⟨_, rfl⟩ | ⟨_, _, _, rfl⟩ | ⟨_, _, rfl⟩ | ⟨_, _, rfl⟩ | ⟨_, _, _, _, _, _, rfl⟩ |
    ⟨_, _, _, rfl⟩ | ⟨_, _, _, rfl⟩ | ⟨_, _, _, _, _, rfl⟩ <;> rfl

end Sys2Proof.Machine
end

