-- ==== Sys2Proof/Laws/Frame.lean ====
section
/-! SUPPORT. What a completion does not read: an update of State that no operand depends on commutes with every
completion. The frames, and the claims that a field has no effect, come from this one lemma. -/

namespace Sys2Proof.Machine

/-- `f` changes nothing that a completion reads, and commutes with everything a completion writes. -/
structure Unread (f : State → State) : Prop where
  digestOperand : ∀ s r, (f s).digestOperand r = s.digestOperand r
  irOperand : ∀ s, (f s).irOperand = s.irOperand
  msg : ∀ s, (f s).msg = s.msg
  retire : ∀ s, (f s).retire = f s.retire
  clearMsg : ∀ s, (f s).clearMsg = f s.clearMsg
  appendMsg : ∀ s b, (f s).appendMsg b = f (s.appendMsg b)
  writeT : ∀ s x, (f s).writeT x = f (s.writeT x)
  writeDigest : ∀ s r d, (f s).writeDigest r d = f (s.writeDigest r d)
  writeIr : ∀ s n, (f s).writeIr n = f (s.writeIr n)
  writeEq : ∀ s b, (f s).writeEq b = f (s.writeEq b)

theorem withOperand_mapNext {α : Type} (f : State → State) (x : Except Fault α) (k k' : α → Result)
    (h : ∀ a, k' a = mapNext f (k a)) : withOperand x k' = mapNext f (withOperand x k) := by
  cases x with
  | ok a => exact h a
  | error e => rfl

theorem Unread.commitHash {f : State → State} (hf : Unread f) (s : State) (H : Primitive) (rd : DReg)
    (x : Digest) : (f s).commitHash H rd x = f (s.commitHash H rd x) := by
  have h : ∀ u : State, u.commitHash H rd x = ((u.writeT x).writeDigest rd (hashWords H x.toList)).retire :=
    fun _ => rfl
  rw [h, h, hf.writeT, hf.writeDigest, hf.retire]

/-- An update that no completion reads commutes with every completion. -/
theorem Unread.exec {f : State → State} (hf : Unread f) (i : Instr) (s : State) :
    exec i (f s) = mapNext f (exec i s) := by
  cases i with
  | msgClear =>
    show Host.Outcome.next (f s).clearMsg.retire = Host.Outcome.next (f s.clearMsg.retire)
    rw [hf.clearMsg, hf.retire]
  | msgAppd r =>
    show execMsgAppd r (f s) = mapNext f (execMsgAppd r s)
    unfold execMsgAppd
    rw [hf.digestOperand]
    exact withOperand_mapNext f _ _ _ fun d => by rw [hf.appendMsg, hf.retire]; rfl
  | dhBytes rd =>
    show execDhBytes rd (f s) = mapNext f (execDhBytes rd s)
    unfold execDhBytes State.hashMessageBytes
    rw [hf.msg, hf.commitHash]; rfl
  | dhWords rd =>
    show execDhWords rd (f s) = mapNext f (execDhWords rd s)
    unfold execDhWords State.hashMessageWords State.messageWords State.msgLen
    rw [hf.msg, hf.commitHash]; rfl
  | dhParent rd a b =>
    show execDhParent rd a b (f s) = mapNext f (execDhParent rd a b s)
    unfold execDhParent State.hashParent
    rw [hf.digestOperand, hf.digestOperand]
    exact withOperand_mapNext f _ _ _ fun l => withOperand_mapNext f _ _ _ fun r => by rw [hf.commitHash]; rfl
  | cvToint r =>
    show execCvToint r (f s) = mapNext f (execCvToint r s)
    unfold execCvToint
    rw [hf.digestOperand]
    exact withOperand_mapNext f _ _ _ fun d => by rw [hf.writeIr, hf.retire]; rfl
  | cvFromint rd =>
    show execCvFromint rd (f s) = mapNext f (execCvFromint rd s)
    unfold execCvFromint
    rw [hf.irOperand]
    exact withOperand_mapNext f _ _ _ fun l => by rw [hf.writeDigest, hf.retire]; rfl
  | cvCmpeq a b =>
    show execCvCmpeq a b (f s) = mapNext f (execCvCmpeq a b s)
    unfold execCvCmpeq
    rw [hf.digestOperand, hf.digestOperand]
    exact withOperand_mapNext f _ _ _ fun l => withOperand_mapNext f _ _ _ fun r => by
      rw [hf.writeEq, hf.retire]; rfl

/-- The host's side of the port is not read by a completion. -/
theorem unread_port (p : List HostOp) : Unread fun s => { s with port := p } := by
  constructor <;> intros <;> rfl

theorem unread_turns (q : List Agent) : Unread fun s => { s with turns := q } := by
  constructor <;> intros <;> rfl

theorem unread_returned (v : Word) : Unread fun s => s.deliver v := by
  constructor <;> intros <;> rfl

/-- The error fields are not read by a completion (60_exceptions.md R256). -/
theorem unread_errors (e : Bool) (c : BitVec 4) : Unread fun s => { s with err := e, errcode := c } := by
  constructor <;> intros <;> rfl

/-- The bus endianness is not read by a completion (20_memory.md R78). -/
theorem unread_busEndian (b : BusEndian) :
    Unread fun s => { s with params := { s.params with busEndian := b } } := by
  constructor <;> intros <;> rfl

end Sys2Proof.Machine
end

