-- ==== Sys2Proof/Laws/PerInstr.lean ====
section
/-! SUPPORT. Statements about every command as syntax, one lemma per constructor. The family `EncodingRow`: a
command's encoding matches the row of spec/opcode_table.json that stands for its mnemonic, and its reserved bits
are 0 (30_encoding.md R102 to R104). -/

namespace Sys2Proof.Laws.EncodingRow

/-- A command's encoding matches its own row of the opcode table, and the row is one of the eight. -/
def Statement (i : Instr) : Prop := matchesRow (encode i) (rowOf i) = true ∧ rowOf i ∈ opcodeTable

theorem msgClear : Statement .msgClear := by unfold Statement; decide

theorem msgAppd (rs1 : DReg) : Statement (.msgAppd rs1) := by
  unfold Statement; revert rs1; decide

theorem dhBytes (rd : DReg) : Statement (.dhBytes rd) := by
  unfold Statement; revert rd; decide

theorem dhWords (rd : DReg) : Statement (.dhWords rd) := by
  unfold Statement; revert rd; decide

theorem dhParent (rd rs1 rs2 : DReg) : Statement (.dhParent rd rs1 rs2) := by
  unfold Statement; revert rd rs1 rs2; decide

theorem cvToint (rs1 : DReg) : Statement (.cvToint rs1) := by
  unfold Statement; revert rs1; decide

theorem cvFromint (rd : DReg) : Statement (.cvFromint rd) := by
  unfold Statement; revert rd; decide

theorem cvCmpeq (rs1 rs2 : DReg) : Statement (.cvCmpeq rs1 rs2) := by
  unfold Statement; revert rs1 rs2; decide

end Sys2Proof.Laws.EncodingRow
end

