-- ==== Sys2Proof/Tests/Slice0.lean ====
section
/-! SUPPORT. The model's own tests. The expected values are transcribed from spec/95_test_vectors.md (the vector
is named at each test) or worked out by hand from the rule named. The theorems `test_wit_…` show, for each
statement with hypotheses, a concrete state and operands that meet them all. -/

open Sys2Proof Sys2Proof.Machine

namespace Sys2Proof.Tests

-- Helpers

/-- The next state of an outcome, if there is one. -/
def nextOf : Result → Option State
  | .next s => some s
  | .fault _ => none
  | .refused _ => none

/-- The fault of an outcome, if there is one. -/
def faultOf : Result → Option Fault
  | .next _ => none
  | .fault f => some f
  | .refused _ => none

/-- The value of a read that gives one. -/
def valueOf : Except Fault Word → Option Word
  | .ok v => some v
  | .error _ => none

/-- One value in all eight words. -/
def eight (v : Word) : Digest := Eight.const v

/-- The digest of V-SRC-1. -/
def countingDigest : Digest :=
  ⟨0x00010203, 0x04050607, 0x08090a0b, 0x0c0d0e0f, 0x10111213, 0x14151617, 0x18191a1b, 0x1c1d1e1f⟩

/-- The limbs of V-CV-7. -/
def countingLimbs : Limbs :=
  ⟨0x11111111, 0x22222222, 0x33333333, 0x44444444, 0x55555555, 0x66666666, 0x77777777, 0x88888888⟩

/-- The bytes of "bitcoin" (V-SRC-5). -/
def bitcoin : List Byte := [0x62, 0x69, 0x74, 0x63, 0x6f, 0x69, 0x6e]

def digestBitcoin : Digest :=
  ⟨0xf1ef1bf1, 0x05d78835, 0x2c052453, 0xb15a9134, 0x03be59b9, 0x0ddf9f7c, 0x1f937ede, 0xe8938dc5⟩
def digestEmpty : Digest :=
  ⟨0x5df6e0e2, 0x761359d3, 0x0a827505, 0x8e299fcc, 0x03815345, 0x45f55cf4, 0x3e41983f, 0x5d4c9456⟩
def digestW1to7 : Digest :=
  ⟨0x489b8eeb, 0x4024cb77, 0xab057616, 0xebf7f8d4, 0x405aa0bd, 0x3ad5f42e, 0x6b4c2058, 0x0e011ac4⟩
def digestBitc : Digest :=
  ⟨0x27603afe, 0x54a32cf6, 0xdcba5072, 0x77d239b8, 0x10ccd6b9, 0x0e483d6e, 0xd9cd7dcd, 0x2a2cd00e⟩
def digestP12 : Digest :=
  ⟨0x14a6e4a4, 0xcaef9691, 0x26944266, 0x724d1186, 0x6b39b339, 0x0cee070b, 0x0aa4c939, 0x0cd77f47⟩
def digestP11 : Digest :=
  ⟨0xcd1b1197, 0x41994545, 0x75a7ea30, 0x8838e21a, 0x7c7fd66f, 0x9cb1c248, 0xefdfcb4b, 0xf4e918e8⟩

/-- A state with every data word written: DR[0] = [1]x8, DR[1] = [2]x8, DR[2] = the digest of V-SRC-1,
DR[3] = [0]x8, IR = the limbs of V-CV-7, MSG = "bitcoin". -/
def loaded : State :=
  { State.reset with
    dr := ⟨eight 1, eight 2, countingDigest, eight 0⟩
    drWritten := Four.const (Eight.const true)
    ir := countingLimbs
    irWritten := Eight.const true
    msg := bitcoin }

/-- `loaded` with a command in flight. -/
def busyWith (i : Instr) : State := { loaded with inflight := some i }

/-- `loaded` with another message. -/
def withMsg (m : List Byte) : State := { loaded with msg := m }

/-- A machine with the capacity of 64 bytes, `n` of them used. -/
def small (n : Nat) : State :=
  { loaded with params := { loaded.params with msgCap := 64 }, msg := List.replicate n 0x55 }

/-- `s` with accesses of the host waiting. -/
def asking (s : State) (ops : List HostOp) : State := { s with port := ops }

-- WellFormed: an ill-formed term for each check, which the check refuses (30_encoding.md R104; 00_scope.md R9)

theorem test_wf_legal : (fieldsOf 0x00001B12).wf = true := by decide
theorem test_wf_reservedZero : (fieldsOf 0x00004010).reservedZero = false := by decide
theorem test_wf_opcodeAssigned : (fieldsOf 0x00000013).opcodeAssigned = false := by decide
theorem test_wf_unusedZero : (fieldsOf 0x00000401).unusedZero = false := by decide
theorem test_wf_params : defaultParams.wf = true := by decide
theorem test_wf_capAligned : ({ defaultParams with msgCap := 66 } : Params).capAligned = false := by decide
theorem test_wf_capHoldsPair : ({ defaultParams with msgCap := 60 } : Params).capHoldsPair = false := by decide
theorem test_wf_capFits : ({ defaultParams with msgCap := 0x100000000 } : Params).capFits = false := by decide
theorem test_wf_capBounds :
    ({ defaultParams with msgCap := 64 } : Params).wf = true ∧
      ({ defaultParams with msgCap := 0xFFFFFFFC } : Params).wf = true := by decide

-- Decode: words written out bit by bit from 30_encoding.md R101 and R102, as RSV ++ RS2 ++ RS1 ++ RD ++ OPC

theorem test_decode_msgClear :
    decode (0#18 ++ 0b00#2 ++ 0b00#2 ++ 0b00#2 ++ 0b00000001#8) = .ok .msgClear := by decide
theorem test_decode_msgAppd :
    decode (0#18 ++ 0b00#2 ++ 0b11#2 ++ 0b00#2 ++ 0b00000010#8) = .ok (.msgAppd 3) := by decide
theorem test_decode_dhBytes :
    decode (0#18 ++ 0b00#2 ++ 0b00#2 ++ 0b10#2 ++ 0b00010000#8) = .ok (.dhBytes 2) := by decide
theorem test_decode_dhWords :
    decode (0#18 ++ 0b00#2 ++ 0b00#2 ++ 0b11#2 ++ 0b00010001#8) = .ok (.dhWords 3) := by decide
theorem test_decode_dhParent :
    decode (0#18 ++ 0b01#2 ++ 0b10#2 ++ 0b11#2 ++ 0b00010010#8) = .ok (.dhParent 3 2 1) := by decide
theorem test_decode_cvToint :
    decode (0#18 ++ 0b00#2 ++ 0b10#2 ++ 0b00#2 ++ 0b00100000#8) = .ok (.cvToint 2) := by decide
theorem test_decode_cvFromint :
    decode (0#18 ++ 0b00#2 ++ 0b00#2 ++ 0b11#2 ++ 0b00100001#8) = .ok (.cvFromint 3) := by decide
theorem test_decode_cvCmpeq :
    decode (0#18 ++ 0b11#2 ++ 0b10#2 ++ 0b00#2 ++ 0b00100010#8) = .ok (.cvCmpeq 2 3) := by decide
/-- V-ENC-10 to V-ENC-15: the illegal words, each by the name of its reason. -/
theorem test_decode_illegal :
    decode 0x00000000 = .error .unassignedOpcode ∧ decode 0x00004010 = .error .reservedBits ∧
    decode 0x00000401 = .error .unusedField ∧ decode 0x00000120 = .error .unusedField ∧
    decode 0x00000013 = .error .unassignedOpcode ∧ decode 0x000000FF = .error .unassignedOpcode := by decide
/-- The host's numbering of an opcode-table row's bits. -/
theorem test_decodeTableWord : decodeTableWord 32 0x00001B12 = some (.dhParent 3 2 1) := by decide

-- The primitive (V-SHA-1 to V-SHA-4)

theorem test_sha256_empty : sha256 [] =
    ⟨0xe3b0c442, 0x98fc1c14, 0x9afbf4c8, 0x996fb924, 0x27ae41e4, 0x649b934c, 0xa495991b, 0x7852b855⟩ := by decide +kernel
theorem test_sha256_abc : sha256 [0x61, 0x62, 0x63] =
    ⟨0xba7816bf, 0x8f01cfea, 0x414140de, 0x5dae2223, 0xb00361a3, 0x96177a9c, 0xb410ff61, 0xf20015ad⟩ := by decide +kernel

-- The hash commands

/-- V-SRC-5: MSG = "bitcoin". -/
theorem test_dhBytes_bitcoin :
    (nextOf (exec (.dhBytes 0) loaded)).map (fun t => t.dr.get 0) = some digestBitcoin := by decide +kernel
/-- V-DH-1, V-DH-3: the empty message, both entry points. -/
theorem test_dhBytes_empty :
    (nextOf (exec (.dhBytes 0) (withMsg []))).map (fun t => t.dr.get 0) = some digestEmpty := by decide +kernel
/-- V-SRC-6: the words 1 to 7. -/
theorem test_dhWords_1to7 :
    (nextOf (exec (.dhWords 1) (withMsg (beBytes [1, 2, 3, 4, 5, 6, 7])))).map (fun t => t.dr.get 1) =
      some digestW1to7 := by decide +kernel
/-- V-DH-11: "oin" is ignored. -/
theorem test_dhWords_truncates :
    (nextOf (exec (.dhWords 0) loaded)).map (fun t => t.dr.get 0) = some digestBitc := by decide +kernel
/-- V-SRC-7 (the order of the operands). -/
theorem test_dhParent_12 :
    (nextOf (exec (.dhParent 2 0 1) loaded)).map (fun t => t.dr.get 2) = some digestP12 := by decide +kernel
/-- V-DH-7: both sources are the destination. -/
theorem test_dhParent_11 :
    (nextOf (exec (.dhParent 0 0 0) loaded)).map (fun t => t.dr.get 0) = some digestP11 := by decide +kernel

-- The converter

/-- V-CV-2. -/
theorem test_cvToint :
    (nextOf (exec (.cvToint 2) loaded)).map (·.ir) =
      some ⟨0x1c1d1e1f, 0x18191a1b, 0x14151617, 0x10111213, 0x0c0d0e0f, 0x08090a0b, 0x04050607, 0x00010203⟩ := by
  decide
/-- V-CV-12, V-MSG-13, V-CV-13 (limb 5 only) and V-DH-15: an unwritten operand. -/
theorem test_unwritten_operand :
    ([exec (.cvToint 2) State.reset, exec (.msgAppd 1) State.reset,
      exec (.cvFromint 0) { loaded with irWritten := loaded.irWritten.set 5 false },
      exec (.dhParent 2 0 1) { loaded with drWritten := loaded.drWritten.set 1 (Eight.const false) }].map faultOf) =
      List.replicate 4 (some .unwrittenOperand) := by decide
/-- V-CV-7. -/
theorem test_cvFromint :
    (nextOf (exec (.cvFromint 3) loaded)).map (fun t => t.dr.get 3) =
      some ⟨0x88888888, 0x77777777, 0x66666666, 0x55555555, 0x44444444, 0x33333333, 0x22222222, 0x11111111⟩ := by
  decide
/-- V-CV-8: one register against itself. -/
theorem test_cvCmpeq_same : (nextOf (exec (.cvCmpeq 1 1) loaded)).map (·.eq) = some true := by decide
/-- V-CV-9: one bit of word 7 differs. -/
theorem test_cvCmpeq_differs :
    (nextOf (exec (.cvCmpeq 0 1) { loaded with
      eq := true
      dr := loaded.dr.set 1 ⟨1, 1, 1, 1, 1, 1, 1, 3⟩ })).map (·.eq) = some false := by decide

-- The message buffer

/-- V-MSG-9. -/
theorem test_msgClear : (nextOf (exec .msgClear loaded)).map (·.msg) = some [] := by decide
/-- V-MSG-11 (the byte order), here with the digest of V-SRC-1 appended after one byte. -/
theorem test_msgAppd :
    (nextOf (exec (.msgAppd 2) (withMsg [0xAA]))).map (·.msg) =
      some (0xAA :: (List.range 32).map fun n => BitVec.ofNat 8 n) := by decide
/-- V-MSG-1: bits 31:8 are ignored. -/
theorem test_push8 : ((withMsg []).writeTarget .msgPush8 0x162).msg = [0x62] := by decide
/-- V-MSG-3: an unaligned append is allowed. -/
theorem test_push32 :
    ((withMsg [0x62, 0x69, 0x74]).writeTarget .msgPush32 0xAABBCCDD).msg =
      [0x62, 0x69, 0x74, 0xAA, 0xBB, 0xCC, 0xDD] := by decide
/-- V-MSG-5 and V-MSG-6: nothing is appended at 61 bytes of 64, and 60 bytes fit exactly. -/
theorem test_push32_overflow :
    ((small 61).writeTarget .msgPush32 0xAABBCCDD).msg.length = 61 ∧
      ((small 61).writeTarget .msgPush32 0xAABBCCDD).statusWord = 0x34 ∧
      ((small 60).writeTarget .msgPush32 0xAABBCCDD).msg.length = 64 := by decide
/-- V-MSG-7: MSG.APPD at a full buffer is not issued. -/
theorem test_msgAppd_not_issued :
    ((small 64).writeTarget .cmd 0x00000002).statusWord = 0x34 := by decide

-- Errors, reset and the port

/-- V-DH-10: DH.WORDS at 7 bytes is not issued. -/
theorem test_dhWords_misaligned : (loaded.writeTarget .cmd 0x00000011).statusWord = 0x24 := by decide
/-- V-ERR-6 and V-ERR-7: the order of the checks. -/
theorem test_error_priority :
    ((busyWith .msgClear).writeTarget .cmd 0).statusWord = 0x45 ∧
      ((busyWith .msgClear).writeTarget .status 0).statusWord = 0x55 := by decide
/-- V-ERR-8: ERR_CLR while busy. -/
theorem test_errclr_busy :
    (((busyWith .msgClear).writeTarget .cmd 0).writeTarget .ctrl 2).statusWord = 0x01 := by decide
/-- V-RST-2, V-RST-3: a soft reset keeps DR and clears the rest. -/
theorem test_softReset :
    ((loaded.writeTarget .id 5).writeTarget .ctrl 3).statusWord = 0 ∧
      ((loaded.writeTarget .id 5).writeTarget .ctrl 3).msg = [] ∧
      ((loaded.writeTarget .id 5).writeTarget .ctrl 3).dr = loaded.dr := by decide
/-- V-ERR-10 and V-ERR-9: outside the window, 16 bits wide, misaligned. -/
theorem test_bad_access :
    faultOf (step (asking loaded [.write 0x1000 4 0])) = some .badBusAccess ∧
      faultOf (step (asking loaded [.read 0x008 2])) = some .badBusAccess ∧
      faultOf (step (asking loaded [.read 0x002 4])) = some .badBusAccess := by decide
/-- V-CV-14: DR[3].w[4], offset 0x170, never written. -/
theorem test_unwritten_read :
    faultOf (step (asking State.reset [.read 0x170 4])) = some .unwrittenRead := by decide
/-- Every row of the opcode table runs once the host has written the data registers (70_reset_and_hazards.md
R284). -/
theorem test_first_instruction :
    ([0x01, 0x02, 0x10, 0x11, 0x12, 0x20, 0x21, 0x22].map fun w =>
      (nextOf (step (loaded.withFetchWord 32 w))).isSome) = List.replicate 8 true := by decide
/-- R284 from `State.reset`: `ld d2, [...]`, then CV.TOINT d2. -/
theorem test_load_then_toint :
    (nextOf (run 11 (asking State.reset (hLd State.reset.params 2 countingDigest ++
      hDo State.reset.params (.cvToint 2))))).map (fun t => t.ir.get 0) = some 0x1c1d1e1f := by decide
/-- 70_reset_and_hazards.md R291: a CMD write ends no run, nor does its completion, nor a read of BUSY = 1; the
STATUS read of BUSY = 0 after it does. -/
theorem test_runEnd :
    (asking loaded (hIssue loaded.params .msgClear)).runEnd = none ∧ (busyWith .msgClear).runEnd = none ∧
      ({ asking (busyWith .msgClear) [.read 0x008 4] with turns := [.host] } : State).runEnd = none ∧
      (asking loaded [.read 0x008 4, .write 0x018 4 0]).runEnd = none ∧
      ((asking loaded [.read 0x008 4, .read 0x100 4]).runEnd).map (·.returned) = some [0] := by decide
/-- V-RST-1: ID, MSG_CAP and STATUS after a power-on reset. -/
theorem test_reset_reads :
    valueOf (State.reset.readTarget .id) = some 0x44484531 ∧
      valueOf (State.reset.readTarget .msgCap) = some 1024 ∧ State.reset.statusWord = 0 := by decide
/-- The host's probe of a row: the very next step runs the instruction. -/
theorem test_withFetchWord :
    (nextOf (step (loaded.withFetchWord 32 0x00000021))).map (fun t => (t.dr.get 0).get 0) =
      some 0x88888888 := by decide
/-- V-RST-6 through the port: `do MSG.CLEAR` is three steps, the last of which reads BUSY = 0. -/
theorem test_do :
    (nextOf (run 3 (asking loaded (hDo loaded.params .msgClear)))).map (fun t => (t.msg, t.port, t.returned)) =
      some ([], [], [0x00000000]) := by decide

-- The assembler and the reference functions

/-- The example of 30_encoding.md R107, in small letters. -/
theorem test_assembler :
    (parseInstr ("dh.parent d2, d0, d1".toList)).map encode = some 0x00001212 := by decide
/-- V-REF-1 and V-REF-2. -/
theorem test_fastPow :
    ([0, 1, 2, 5, 10].map fun e => (fastPow 32 3 e).toOption) =
      [some 1, some 3, some 9, some 243, some 59049] ∧ (fastPow 32 0 0).toOption = some 1 := by decide
/-- V-REF-3 to V-REF-7. -/
theorem test_shifts :
    (refShr 32 0xdeadbeef 31).toOption = some 1 ∧ (refShl 32 1 31).toOption = some 0x80000000 ∧
      refShl 32 2 31 = .error .refOverflow ∧ (refShl 32 5 33).toOption = some 0 ∧
      (refShr 32 5 1000).toOption = some 0 := by decide
/-- V-REF-8: limb 1 of the low half. -/
theorem test_limb :
    (refLimb 0x0e011ac46b4c20583ad5f42e405aa0bd 1).toOption = some 0x3ad5f42e := by decide

-- Witnesses: the hypotheses of each statement of Certificates/Slice0/Obligations.lean, met together

/-- The host's next access is a write of `v` at the offset of `t` (the window's base is 0). -/
def writing (s : State) (t : Target) (v : Word) : State := asking s (hWr s.params t v)

theorem hostWrites_of {s : State} {t : Target} {v : Word} {off : Nat} (hm : s.mover = .host)
    (hp : s.port = [.write (s.params.base + off) 4 v]) (ho : busOffset s.params (s.params.base + off) 4 = some off)
    (ht : targetOf off = t) : s.hostWrites t v := ⟨hm, _, _, _, _, hp, ho, ht⟩

theorem test_wit_LegalWordsAreTheTableRows :
    decode 0 = .error .unassignedOpcode ∧ State.reset.inflight = none ∧
      (∃ i, decode 0x00001B12 = .ok i) ∧ (∃ row ∈ opcodeTable, matchesRow 0x00001B12 row = true) := by
  exact ⟨by decide, rfl, ⟨.dhParent 3 2 1, by decide⟩, (0x00000012, 0xFFFFC0FF), by decide, by decide⟩

theorem test_wit_AssemblerTextReadsBack :
    ['m', 'S', 'g', '.', 'a', 'p', 'P', 'd'].map capital = mnemonic (.msgAppd 2) ∧
      ['d', 'h', '.', 'p', 'a', 'r', 'e', 'n', 't'].map capital = mnemonic (.dhParent 3 2 1) := by decide

theorem test_wit_StepCompletesTheCommandInFlight :
    (busyWith (.cvToint 2)).params.wf = true ∧ (busyWith (.cvToint 2)).completes (.cvToint 2) ∧
      decode 0x00000820 = .ok (.cvToint 2) := ⟨by decide, ⟨by decide, rfl⟩, by decide⟩

theorem test_wit_StepIsRefusedExactlyOnIllFormedCapacity :
    step { loaded with params := { defaultParams with msgCap := 60 } } = .refused .illFormedParams := rfl

/-- Each clause, the unmapped ones at the edges of their ranges. -/
theorem test_wit_HostAccessReachesItsRegister :
    loaded.params.wf = true ∧
      (asking loaded [.read (loaded.params.base + 0x17C) 4]).mover = .host ∧
      (asking loaded [.read (loaded.params.base + 0x17C) 4]).targetWritten (targetOf 0x17C) = true ∧
      (asking State.reset [.read (State.reset.params.base + 0x19C) 4]).targetWritten (targetOf 0x19C) = false ∧
      targetOf 0x020 = .unmapped ∧ targetOf 0xFFC = .unmapped ∧
      (asking loaded [.write (loaded.params.base + 0xFFC) 4 5]).mover = .host := by decide

/-- The four clauses at their boundaries: a width that is not 4, just below and just above the window, an odd
offset; and the last offset of the window, which is none of them. -/
theorem test_wit_BadBusAccessFaults :
    let s := { loaded with params := { loaded.params with base := 0x1000 } }
    faultOf (step (asking s [.read 0x1008 2])) = some .badBusAccess ∧
      faultOf (step (asking s [.read 0x0FFC 4])) = some .badBusAccess ∧
      faultOf (step (asking s [.write 0x2000 4 0])) = some .badBusAccess ∧
      faultOf (step (asking s [.read 0x1FFD 4])) = some .badBusAccess ∧
      faultOf (step (asking s [.read 0x1FFC 4])) = none ∧ (asking s [.read 0x1FFC 4]).mover = .host := by decide

theorem test_wit_NoReadHasASideEffect :
    let s := asking loaded [.read 0x008 4]
    s.mover = .host ∧ s.port = [.read 0x008 4] ∧ (nextOf (step s)).isSome = true := by decide

theorem test_wit_WaitIsLeftExactlyWhenNotBusy :
    let s := { asking (busyWith .msgClear) hWait with turns := [.host] }
    s.params.wf = true ∧ s.mover = .host ∧ s.port = [.wait] ∧ s.inflight ≠ none ∧
      (asking loaded hWait).mover = .host ∧ (asking loaded hWait).inflight = none := by decide

theorem test_wit_DoRunsTheCommand :
    let s := asking loaded (hDo loaded.params .msgClear)
    s.params.wf = true ∧ s.inflight = none ∧ s.turns = [] ∧ s.port = hDo s.params .msgClear ++ [] ∧
      writeError s .cmd (encode .msgClear) = none ∧
      (nextOf (exec .msgClear { s with port := [], inflight := some .msgClear })).isSome = true := by decide

theorem test_wit_LoadWritesTheDigest :
    let s := asking State.reset (hLd State.reset.params 3 countingDigest)
    s.params.wf = true ∧ s.inflight = none ∧ s.turns = [] ∧ s.port = hLd s.params 3 countingDigest ++ [] := by decide

/-- The edges of the map's ranges (20_memory.md R71). -/
theorem test_wit_OffsetsNameTheirRegisters :
    targetOf 0x01C = .msgPush32 ∧ targetOf 0x020 = .unmapped ∧ targetOf 0x0FC = .unmapped ∧
      targetOf 0x100 = .dr 0 0 ∧ targetOf 0x170 = .dr 3 4 ∧ targetOf 0x17C = .dr 3 7 ∧ targetOf 0x180 = .ir 0 ∧
      targetOf 0x19C = .ir 7 ∧ targetOf 0x1A0 = .unmapped ∧ targetOf 0xFFC = .unmapped := by decide

theorem test_wit_ControlRegistersReadAsTheRulesSay :
    (busyWith .msgClear).inflight ≠ none ∧ (busyWith .msgClear).statusWord = 1 ∧ loaded.inflight = none := by decide

theorem test_wit_HostWritesTakeTheFirstStepThatApplies :
    (busyWith .msgClear).inflight ≠ none ∧ loaded.inflight = none ∧
      Target.msgPush8 ∉ [Target.id, .status, .msgLen, .msgCap, .unmapped, .ctrl] := by decide

theorem test_wit_DataWordReadsBack :
    loaded.inflight = none ∧ Target.dr 3 7 ≠ Target.ir 7 ∧
      valueOf ((loaded.writeTarget (.dr 3 7) 9).readTarget (.dr 3 7)) = some 9 := by decide

/-- Bit 0 set (alone and with bit 1), bit 1 set alone, neither set. -/
theorem test_wit_CtrlWritesAct :
    ((1 : Word).getLsbD 0 = true ∧ (3 : Word).getLsbD 0 = true) ∧
      ((2 : Word).getLsbD 0 = false ∧ (2 : Word).getLsbD 1 = true) ∧
      ((0xFFFFFFFC : Word).getLsbD 0 = false ∧ (0xFFFFFFFC : Word).getLsbD 1 = false) := by decide

theorem test_wit_RaiseErrorKeepsTheFirst :
    loaded.err = false ∧ (loaded.raiseError .busy).err = true := by decide

theorem test_wit_WritesReportTheFirstErrorOnly :
    writeError loaded .unmapped 0 = some .badAccess ∧ writeError (busyWith .msgClear) .cmd 0 = some .busy ∧
      writeError loaded .cmd 0 = some .illegalCmd ∧ writeError loaded .cmd 0x11 = some .msgMisaligned ∧
      writeError (small 64) .msgPush8 0 = some .msgOverflow ∧ writeError loaded (.ir 0) 0 = none ∧
      (busyWith .msgClear).inflight ≠ none := by decide

/-- Each clause, the last one at its bounds (MSG_LEN + 32 = 64 = `MSG_CAP_BYTES`; MSG_LEN = 8). -/
theorem test_wit_IssueMakesItsChecksInOrder :
    (busyWith .msgClear).inflight ≠ none ∧
      (loaded.inflight = none ∧ decode 0 = .error .unassignedOpcode) ∧
      (decode 0x11 = .ok (.dhWords 0) ∧ loaded.msg.length % 4 ≠ 0 ∧ loaded.params.wordsPolicy = .fault) ∧
      ((small 33).inflight = none ∧ decode 0x2 = .ok (.msgAppd 0) ∧
        (small 33).params.msgCap < (small 33).msg.length + 32) ∧
      ((small 32).inflight = none ∧ (small 32).msg.length + 32 ≤ (small 32).params.msgCap) ∧
      ((small 8).inflight = none ∧ (small 8).msg.length % 4 = 0) := by decide

theorem test_wit_RecordedErrorBlocksNothing : Target.cmd ≠ Target.ctrl ∧ Target.msgPush8 ≠ Target.ctrl := by decide

theorem test_wit_ErrorsAreClearedOnlyByCtrlOrReset :
    let s := writing (loaded.raiseError .badAccess) .ctrl 2
    (∃ s', step s = .next s' ∧ s'.err = false) ∧ s.err = true ∧ s.hostWrites .ctrl 2 :=
  ⟨⟨_, rfl, rfl⟩, rfl, hostWrites_of (off := 4) rfl rfl (by decide) rfl⟩

theorem test_wit_CompletionsTouchNoFlagButEq :
    (nextOf (exec (.cvCmpeq 0 0) loaded)).isSome = true ∧ (nextOf (exec .msgClear loaded)).isSome = true := by decide

/-- The bounds of the three appends: one byte too many and an exact fit. -/
theorem test_wit_AppendsAreAllOrNothing :
    (small 64).inflight = none ∧ (small 64).params.msgCap < (small 64).msg.length + 1 ∧
      (small 63).msg.length + 1 ≤ (small 63).params.msgCap ∧
      (small 61).params.msgCap < (small 61).msg.length + 4 ∧
      (small 60).msg.length + 4 ≤ (small 60).params.msgCap := by decide

/-- The hypotheses of the statements about a source's words, with the words written. -/
theorem test_wit_operands_written :
    loaded.digestWritten 0 = true ∧ loaded.digestWritten 3 = true ∧ loaded.limbsWritten = true := by decide

/-- MSG.APPD, DH.PARENT and the converter commands complete here, as their statements say. -/
theorem test_wit_commands_complete :
    ([Instr.msgClear, .msgAppd 1, .dhBytes 0, .dhWords 1, .dhParent 2 0 1, .cvToint 2, .cvFromint 3,
      .cvCmpeq 0 1].map fun i => (nextOf (exec i loaded)).isSome) = List.replicate 8 true := by decide

theorem test_wit_BytesAndWordsAreBigEndian :
    [(7 : Word), 0x01020304][1]? = some 0x01020304 ∧ bitcoin.take 4 ≠ [] ∧ (bitcoin.take 4).length = 4 * 1 ∧
      (bitcoin.take 4).length % 4 = 0 := by decide

theorem test_wit_HashEntryPointsAgree :
    (withMsg [1, 2, 3, 4]).msg.length % 4 = 0 ∧ loaded.digestWritten 0 = true ∧ loaded.digestWritten 1 = true ∧
      (withMsg []).msg = [] ∧ 4 * [(1 : Word), 2].length ≤ (withMsg []).params.msgCap := by decide

/-- Two states that differ in EQ, the error fields and T, and agree on the inputs. -/
theorem test_wit_ResultIsAFunctionOfTheInputs :
    let u := { loaded with eq := true, err := true, errcode := 3, t := eight 9 }
    loaded.msg = u.msg ∧ loaded.dr = u.dr ∧ loaded.drWritten = u.drWritten ∧
      loaded.ir = u.ir ∧ loaded.irWritten = u.irWritten ∧ loaded ≠ u := by decide

theorem test_wit_HashCommandsFrame :
    (∃ a b, Instr.dhParent 2 0 1 = .dhParent 2 a b) ∧ (∃ t, exec (.dhParent 2 0 1) loaded = .next t) ∧
      (0 : DReg) ≠ 2 := ⟨⟨0, 1, rfl⟩, ⟨_, rfl⟩, by decide⟩

theorem test_wit_ConverterCommandsFrame :
    (∃ r, Instr.cvToint 2 = .cvToint r) ∧ (∃ t, exec (.cvToint 2) loaded = .next t) ∧
      (∃ t, exec (.cvFromint 1) loaded = .next t) ∧ (∃ t, exec (.cvCmpeq 0 1) loaded = .next t) ∧
      writesTarget (.cvFromint 1) (.dr 0 0) = false := ⟨⟨2, rfl⟩, ⟨_, rfl⟩, ⟨_, rfl⟩, ⟨_, rfl⟩, by decide⟩

theorem test_wit_MessageCommandsFrame :
    (∃ t, exec .msgClear loaded = .next t) ∧ (∃ t, exec (.msgAppd 2) loaded = .next t) ∧
      6 < loaded.msg.length := ⟨⟨_, rfl⟩, ⟨_, rfl⟩, by decide⟩

/-- Unwritten words at the edges of DR and IR; a step that stops; a step that uses none, with other written bits. -/
theorem test_wit_UnwrittenDataFaults :
    State.reset.params.wf = true ∧ (State.reset.drWritten.get 3).get 7 = false ∧
      State.reset.irWritten.get 0 = false ∧
      step (asking State.reset [.read 0x180 4]) = .fault .unwrittenRead ∧
      (∀ r j, (loaded.drWritten.get r).get j = true) ∧ (∀ k, loaded.irWritten.get k = true) ∧
      ¬ (loaded.usesUnwrittenOperand ∨ loaded.readsUnwritten) ∧
      ¬ (State.reset.usesUnwrittenOperand ∨ State.reset.readsUnwritten) := by
  have no : ∀ s : State, s.inflight = none → s.port = [] → ¬ (s.usesUnwrittenOperand ∨ s.readsUnwritten) := by
    rintro s hi hp (⟨i, ⟨_, h⟩, _⟩ | ⟨_, a, b, r, o, h, _⟩)
    · rw [hi] at h; cases h
    · rw [hp] at h; cases h
  exact ⟨by decide, by decide, by decide, rfl, by decide, by decide, no _ rfl rfl, no _ rfl rfl⟩

/-- A write, a completion and a soft reset, each a step that answers a next state. -/
theorem test_wit_WrittenBitsStaySet :
    (∃ s', step (writing loaded (.dr 0 0) 7) = .next s') ∧ (loaded.drWritten.get 3).get 7 = true ∧
      (writing loaded .ctrl 1).softResets :=
  ⟨⟨_, rfl⟩, rfl, 1, hostWrites_of (off := 4) rfl rfl (by decide) rfl, by decide⟩

theorem test_wit_DataRegistersChangeOnlyByTheirWriters :
    (∃ s', step (writing loaded (.dr 0 0) 7) = .next s' ∧ s'.dr.get 0 ≠ loaded.dr.get 0) ∧
      (∃ s', step (writing loaded (.ir 7) 7) = .next s' ∧ s'.ir ≠ loaded.ir) ∧
      (∃ s', step (busyWith (.cvToint 2)) = .next s' ∧ s'.ir ≠ loaded.ir) :=
  ⟨⟨_, rfl, by decide⟩, ⟨_, rfl, by decide⟩, ⟨_, rfl, by decide⟩⟩

theorem test_wit_MessageChangesOnlyByItsWriters :
    (∃ s', step (writing loaded .msgPush8 7) = .next s' ∧ s'.msg ≠ loaded.msg) ∧
      (∃ s', step (busyWith .msgClear) = .next s' ∧ s'.msg ≠ loaded.msg) :=
  ⟨⟨_, rfl, by decide⟩, ⟨_, rfl, by decide⟩⟩

theorem test_wit_EqChangesOnlyByCompareOrReset :
    ∃ s', step (busyWith (.cvCmpeq 0 0)) = .next s' ∧ s'.eq ≠ (busyWith (.cvCmpeq 0 0)).eq :=
  ⟨_, rfl, by decide⟩

/-- A state that meets the invariant, has a command with an issue check in flight, and steps. -/
theorem test_wit_StepKeepsTheInvariant :
    ({ small 32 with inflight := some (.msgAppd 0) } : State).Inv ∧
      ∃ s', step { small 32 with inflight := some (.msgAppd 0) } = .next s' :=
  ⟨⟨by decide, by decide, by decide, by decide, fun _ _ => by decide, fun _ h => by cases h⟩, ⟨_, rfl⟩⟩

theorem test_wit_PowerOnLeavesTheControlStateDefined :
    ({ defaultParams with msgCap := 64 } : Params).wf = true := by decide

/-- Two host turns with a command in flight: a dropped push and a poll. -/
theorem test_wit_InFlightCommandKeepsItsInputs :
    let s := { asking (busyWith (.dhBytes 0)) [.write 0x018 4 0x21, .wait] with turns := [.host, .host] }
    s.inflight = some (.dhBytes 0) ∧ (∃ u, run 2 s = .next u) ∧ s.mover = .host ∧ ¬ s.softResets ∧
      ∀ v, run 1 s = .next v → v.mover = .host ∧ ¬ v.softResets := by
  refine ⟨rfl, ⟨_, rfl⟩, rfl, ?_, ?_⟩
  · rintro ⟨v, ⟨_, a, b, r, o, hp, ho, ht⟩, _⟩
    cases hp
    cases ho
    exact absurd ht (by decide)
  · intro v hv
    cases hv
    refine ⟨rfl, ?_⟩
    rintro ⟨v, ⟨_, a, b, r, o, hp, _⟩, _⟩
    cases hp

theorem test_wit_IssuedCommandCompletesOrIsAbandoned :
    let s := { busyWith (.dhBytes 0) with turns := [.host] }
    s.params.wf = true ∧ s.inflight = some (.dhBytes 0) ∧ s.mover = .host := by decide

theorem test_wit_RunEndsAtAnIdleStatusReadAfterTheLastWrite :
    ∃ t, (asking loaded [.wait, .read 0x100 4]).runEnd = some t ∧ (∃ u, run 1 t = .next u) :=
  ⟨_, rfl, _, rfl⟩

theorem test_wit_SafeReadCommutesWithCompletion :
    let s := asking (busyWith (.cvToint 2)) [.read 0x100 4]
    s.inflight = some (.cvToint 2) ∧ s.port = [.read 0x100 4] ∧ busOffset s.params 0x100 4 = some 0x100 ∧
      writesTarget (.cvToint 2) (targetOf 0x100) = false ∧ (nextOf (exec (.cvToint 2) s)).isSome = true := by decide

theorem test_wit_PaddingFillsWholeBlocks :
    0 < padZeros ([] : List Byte).length ∧ 8 * bitcoin.length < 2 ^ 64 := by decide

theorem test_wit_HashFoldsOverTheBlocks : 0 < 31 ∧ 31 < 32 ∧ (List.replicate 16 (7 : Word)).length = 16 := by decide

theorem test_wit_ScheduleFollowsItsRecurrence : (List.replicate 16 (7 : Word)).length = 16 := by decide

theorem test_wit_ReferenceFunctionsAreTheirArithmetic :
    0 < 32 ∧ (fastPow 32 65535 2).toOption = some 4294836225 ∧ fastPow 32 65536 2 = .error .refOverflow := by decide

theorem test_wit_ReferenceBoundaryLaws :
    0xdeadbeef < 2 ^ 32 ∧ 10 ∈ [0, 1, 2, 5, 10] ∧ 3 ^ 10 < 2 ^ 32 := by decide

theorem test_wit_ReferenceConstructionIsTheWiring : 2 ^ 128 - 1 < 2 ^ 128 ∧ 3 < 4 := by decide

end Sys2Proof.Tests
end

section
/-! The capacity's constraints (00_scope.md R9) and the refusal of a step. -/

namespace Sys2Proof.Machine

/-- The check of the parameters is R9's three constraints. -/
theorem params_wf_iff (p : Params) :
    p.wf = true ↔ p.msgCap % 4 = 0 ∧ 64 ≤ p.msgCap ∧ p.msgCap ≤ 0xFFFFFFFC := by
  simp [Params.wf, Params.capAligned, Params.capHoldsPair, Params.capFits, and_assoc]

theorem hostRead_not_refused (addr bytes : Nat) (s : State) (r : Refusal) :
    hostRead addr bytes s ≠ .refused r := by
  unfold hostRead
  cases busOffset s.params addr bytes with
  | none => simp
  | some off => cases hv : s.readTarget (targetOf off) <;> simp [hv]

theorem hostWrite_not_refused (addr bytes : Nat) (v : Word) (s : State) (r : Refusal) :
    hostWrite addr bytes v s ≠ .refused r := by
  unfold hostWrite
  cases busOffset s.params addr bytes <;> simp

/-- A host turn answers a next state or a fault, whatever access is next. -/
theorem hostTurn_not_refused (s : State) (r : Refusal) : hostTurn s ≠ .refused r := by
  unfold hostTurn
  split
  · simp
  · exact hostRead_not_refused _ _ _ r
  · exact hostWrite_not_refused _ _ _ _ r
  · simp [hostPoll]

theorem engineTurn_not_refused (s : State) (r : Refusal) : engineTurn s ≠ .refused r := by
  unfold engineTurn
  split
  · exact exec_not_refused _ s r
  · simp

/-- Neither agent's turn is refused, so the only refusal of a step is the one for ill-formed parameters. -/
theorem step_refused_iff (s : State) : (∃ r, step s = .refused r) ↔ ¬ s.params.wf = true := by
  unfold step
  constructor
  · rintro ⟨r, h⟩ hwf
    rw [if_pos hwf] at h
    cases hm : s.mover with
    | engine => exact engineTurn_not_refused s.popTurn r (by simpa only [hm] using h)
    | host => exact hostTurn_not_refused s.popTurn r (by simpa only [hm] using h)
  · intro hwf
    exact ⟨.illFormedParams, if_neg hwf⟩

/-- Settles O6: neither agent's turn is refused, and the check that `step` makes first is R9's. -/
theorem stepIsRefusedExactlyOnIllFormedCapacity :
    Obligations.StepIsRefusedExactlyOnIllFormedCapacity := by
  intro s
  rw [step_refused_iff, params_wf_iff]

end Sys2Proof.Machine
end

section
/-! The invariant of the machine (`State.Inv`): which updates of State keep it, then each turn, then the step. -/

namespace Sys2Proof.Machine

/-- Every error of 60_exceptions.md R251 has a code from 1 to 5. -/
theorem ErrorCode.code_ne_zero (c : ErrorCode) : c.code ≠ 0 := by cases c <;> decide
theorem ErrorCode.code_toNat_le (c : ErrorCode) : c.code.toNat ≤ 5 := by cases c <;> decide

/-- MSG.APPD passes its issue check exactly when 32 more bytes fit (41_message_input.md R165). -/
theorem issueCheck_msgAppd_none (s : State) (r : DReg) :
    issueCheck s (.msgAppd r) = none ↔ s.msgLen + 32 ≤ s.params.msgCap := by
  simp [issueCheck, issueCheckMsgAppd, State.wouldOverflow_iff]

/-- DH.WORDS passes its issue check exactly when MSG_LEN is a multiple of 4 or the policy is to truncate
(42_double_hash.md R194). -/
theorem issueCheck_dhWords_none (s : State) (r : DReg) :
    issueCheck s (.dhWords r) = none ↔ (s.params.wordsPolicy = .fault → s.msgLen % 4 = 0) := by
  simp only [issueCheck, issueCheckDhWords, ite_eq_right_iff, reduceCtorEq, imp_false]
  tauto

namespace State.Inv

variable {s t : State}

/-- With nothing in flight no issue check has to hold. -/
theorem of_idle (hp : t.params.wf = true) (hm : t.msgLen ≤ t.params.msgCap)
    (hc : t.errcode = 0 ↔ t.err = false) (hk : t.errcode.toNat ≤ 5) (hi : t.inflight = none) : t.Inv :=
  ⟨hp, hm, hc, hk, fun _ h => by simp [hi] at h, fun _ h => by simp [hi] at h⟩

/-- The invariant reads the parameters, MSG, the error fields and the command in flight only. -/
theorem congr (h : s.Inv) (hp : t.params = s.params) (hm : t.msg = s.msg) (he : t.err = s.err)
    (hc : t.errcode = s.errcode) (hi : t.inflight = s.inflight) : t.Inv := by
  constructor <;> simp only [State.msgLen, hp, hm, he, hc, hi]
  exacts [h.params_wf, h.msg_fits, h.code_of_err, h.code_known, h.appd_fits, h.words_aligned]

/-- Ending the command in flight asks for nothing more. -/
theorem retire (h : s.Inv) : s.retire.Inv :=
  of_idle h.params_wf h.msg_fits h.code_of_err h.code_known rfl

theorem raiseError (h : s.Inv) (c : ErrorCode) : (s.raiseError c).Inv := by
  rcases s.raiseError_cases c with ⟨_, e⟩ | ⟨_, e⟩ <;> rw [e]
  · exact h
  · exact ⟨h.params_wf, h.msg_fits, iff_of_false c.code_ne_zero (by simp), c.code_toNat_le,
      h.appd_fits, h.words_aligned⟩

theorem clearErrors (h : s.Inv) : s.clearErrors.Inv :=
  ⟨h.params_wf, h.msg_fits, by simp, by simp, h.appd_fits, h.words_aligned⟩

theorem softReset (h : s.Inv) : s.softReset.Inv :=
  of_idle h.params_wf (Nat.zero_le _) (by simp) (by simp) rfl

theorem ctrlAction (h : s.Inv) (v : Word) : (s.ctrlAction v).Inv := by
  unfold State.ctrlAction
  split
  · exact h.softReset
  · split
    · exact h.clearErrors
    · exact h

/-- An append while BUSY = 0 needs room only: MSG changes under no command's issue check. -/
theorem appendMsg (h : s.Inv) (hi : s.inflight = none) {bytes : List Byte}
    (hf : s.msgLen + bytes.length ≤ s.params.msgCap) : (s.appendMsg bytes).Inv :=
  of_idle h.params_wf (by simpa [State.msgLen] using hf) h.code_of_err h.code_known hi

theorem pushBytes (h : s.Inv) (hi : s.inflight = none) (bytes : List Byte) : (s.pushBytes bytes).Inv := by
  rcases s.pushBytes_cases bytes with ⟨hf, e⟩ | ⟨_, e⟩ <;> rw [e]
  · exact h.appendMsg hi hf
  · exact h.raiseError _

/-- A command that passed its issue check may be latched: the check is what the invariant keeps of it. -/
theorem latch (h : s.Inv) {i : Instr} (hc : issueCheck s i = none) : (s.latch i).Inv where
  params_wf := h.params_wf
  msg_fits := h.msg_fits
  code_of_err := h.code_of_err
  code_known := h.code_known
  appd_fits r hi := by
    cases hi
    exact (issueCheck_msgAppd_none s r).1 hc
  words_aligned r hi := by
    cases hi
    exact (issueCheck_dhWords_none s r).1 hc

theorem issue (h : s.Inv) (w : Word) : (s.issue w).Inv := by
  rcases s.issue_cases w with ⟨_, e⟩ | ⟨_, _, e⟩ | ⟨_, _, _, _, _, e⟩ | ⟨_, i, _, hc, e⟩ <;> rw [e]
  · exact h.raiseError _
  · exact h.raiseError _
  · exact h.raiseError _
  · exact h.latch hc

theorem idleWrite (h : s.Inv) (hi : s.inflight = none) (v : Word) (q : Target) : (s.idleWrite v q).Inv := by
  cases q with
  | id | ctrl | status | msgLen | msgCap | unmapped => exact h
  | cmd => exact h.issue v
  | msgPush8 => exact h.pushBytes hi _
  | msgPush32 => exact h.pushBytes hi _
  | dr i j => exact h.congr rfl rfl rfl rfl rfl
  | ir k => exact h.congr rfl rfl rfl rfl rfl

theorem writeTarget (h : s.Inv) (q : Target) (v : Word) : (s.writeTarget q v).Inv := by
  rcases s.writeTarget_cases q v with ⟨_, e⟩ | ⟨_, e⟩ | ⟨_, _, _, e⟩ | ⟨_, _, hb, e⟩ <;> rw [e]
  · exact h.raiseError _
  · exact h.ctrlAction v
  · exact h.raiseError _
  · exact h.idleWrite (s.not_busy_iff.1 hb) v q

theorem popPort (h : s.Inv) : s.popPort.Inv := h.congr rfl rfl rfl rfl rfl

theorem popTurn (h : s.Inv) : s.popTurn.Inv := h.congr rfl rfl rfl rfl rfl

theorem deliver (h : s.Inv) (v : Word) : (s.deliver v).Inv := h.congr rfl rfl rfl rfl rfl

theorem hostTurn_next (h : s.Inv) (hs : hostTurn s = .next t) : t.Inv := by
  rcases hostTurn_next_cases hs with ⟨_, rfl⟩ | ⟨_, _, _, _, v, _, _, _, rfl⟩ | ⟨_, _, v, _, _, _, _, rfl⟩ |
    ⟨_, _, rfl⟩
  · exact h
  · exact h.popPort.deliver v
  · exact h.popPort.writeTarget _ v
  · split
    · exact h.deliver _
    · exact (h.deliver _).popPort

/-- A hash command's commit keeps the invariant, for any primitive: it writes a digest register and T only. -/
theorem commitHash (h : s.Inv) (H : Primitive) (rd : DReg) (x : Digest) : (s.commitHash H rd x).Inv :=
  of_idle (by simpa using h.params_wf) (by simpa [State.msgLen] using h.msg_fits) (by simpa using h.code_of_err)
    (by simpa using h.code_known) (by simp)

theorem clearMsg_retire (h : s.Inv) : s.clearMsg.retire.Inv :=
  of_idle h.params_wf (Nat.zero_le _) h.code_of_err h.code_known rfl

/-- MSG.APPD in flight has room for its 32 bytes, because its issue check still holds (41_message_input.md R165). -/
theorem appendDigest_retire (h : s.Inv) {r : DReg} (hi : s.inflight = some (.msgAppd r)) (d : Digest) :
    (s.appendMsg (byteView d)).retire.Inv :=
  of_idle h.params_wf (by simpa [State.msgLen] using h.appd_fits r hi) h.code_of_err h.code_known rfl

/-- The completion of the command in flight keeps the invariant. -/
theorem exec_next (h : s.Inv) {i : Instr} (hi : s.inflight = some i) (he : exec i s = .next t) : t.Inv := by
  rcases exec_next_cases he with ⟨rfl, rfl⟩ | ⟨r, rfl, _, rfl⟩ | ⟨rd, rfl, rfl⟩ | ⟨rd, rfl, rfl⟩ |
    ⟨rd, _, _, rfl, _, _, rfl⟩ | ⟨r, rfl, _, rfl⟩ | ⟨rd, rfl, _, rfl⟩ | ⟨_, _, rfl, _, _, rfl⟩
  · exact h.clearMsg_retire
  · exact h.appendDigest_retire hi _
  · exact h.commitHash _ rd _
  · exact h.commitHash _ rd _
  · exact h.commitHash _ rd _
  · exact h.retire.congr rfl rfl rfl rfl rfl
  · exact h.retire.congr rfl rfl rfl rfl rfl
  · exact h.retire.congr rfl rfl rfl rfl rfl

theorem step_next (h : s.Inv) (hs : step s = .next t) : t.Inv := by
  obtain ⟨_, ⟨i, ⟨_, hi⟩, he⟩ | ⟨_, _, rfl⟩ | ⟨_, ht⟩⟩ := step_next_cases hs
  · exact h.popTurn.exec_next hi he
  · exact h.popTurn
  · exact h.popTurn.hostTurn_next ht

end State.Inv

/-- Settles O46: the inversion of the step leaves a completion, an idle turn of the engine or a host turn, and each
keeps the invariant. -/
theorem stepKeepsTheInvariant : Obligations.StepKeepsTheInvariant :=
  fun _ _ h hs => h.step_next hs

end Sys2Proof.Machine
end

section
/-! The control registers (10_state.md R35 to R43), the CTRL actions (R36) and the state after a power-on reset
(R45). -/

namespace Sys2Proof.Machine

/-- The bits of STATUS, said once: three flags, a 0, ERRCODE, and 0 above it (10_state.md R37). -/
theorem State.statusWord_getLsbD (s : State) (k : Nat) :
    s.statusWord.getLsbD k =
      match k with
      | 0 => s.busy
      | 1 => s.eq
      | 2 => s.err
      | 3 => false
      | j + 4 => s.errcode.getLsbD j := by
  unfold State.statusWord
  iterate 5 rw [BitVec.getLsbD_append]
  match k with
  | 0 | 1 | 2 | 3 => simp
  | j + 4 => simpa using BitVec.lt_of_getLsbD

theorem State.statusWord_errcode (s : State) : s.statusWord.extractLsb' 4 4 = s.errcode := by
  apply BitVec.eq_of_getLsbD_eq
  intro j hj
  rw [BitVec.getLsbD_extractLsb', Nat.add_comm, s.statusWord_getLsbD]
  simp [hj]

theorem State.statusWord_upper (s : State) : s.statusWord.extractLsb' 8 24 = 0 := by
  apply BitVec.eq_of_getLsbD_eq
  intro j hj
  rw [BitVec.getLsbD_extractLsb', show 8 + j = (j + 4) + 4 by omega, s.statusWord_getLsbD]
  simp

/-- Settles O14: the reads are the branches of `readTarget`, and each field of STATUS stands at its bits. -/
theorem controlRegistersReadAsTheRulesSay : Obligations.ControlRegistersReadAsTheRulesSay := by
  intro s
  have hbusy : s.statusWord.getLsbD 0 = true ↔ s.inflight ≠ none := by
    rw [s.statusWord_getLsbD]
    exact s.busy_iff
  exact ⟨rfl, rfl, rfl, rfl, rfl, rfl, rfl, rfl, rfl, hbusy, s.statusWord_getLsbD 1, s.statusWord_getLsbD 2,
    s.statusWord_getLsbD 3, s.statusWord_errcode, s.statusWord_upper⟩

/-- CTRL is writable whether or not a command is in flight (10_state.md R36). -/
theorem State.writeTarget_ctrl (s : State) (v : Word) : s.writeTarget .ctrl v = s.ctrlAction v := rfl

theorem State.ctrlAction_of_bit0 (s : State) {v : Word} (h0 : v.getLsbD 0 = true) :
    s.ctrlAction v = s.softReset := if_pos h0

theorem State.ctrlAction_of_bit1 (s : State) {v : Word} (h0 : v.getLsbD 0 = false) (h1 : v.getLsbD 1 = true) :
    s.ctrlAction v = s.clearErrors := by
  simp only [State.ctrlAction, h0, h1, Bool.false_eq_true, if_false, if_true]

theorem State.ctrlAction_of_no_bit (s : State) {v : Word} (h0 : v.getLsbD 0 = false) (h1 : v.getLsbD 1 = false) :
    s.ctrlAction v = s := by
  simp only [State.ctrlAction, h0, h1, Bool.false_eq_true, if_false]

/-- Settles O17: the three bit patterns of a CTRL write are a soft reset, a clearing of the error fields and
nothing. The model's soft reset leaves T as it is (log 4). -/
theorem ctrlWritesAct : Obligations.CtrlWritesAct := by
  intro s v
  rw [s.writeTarget_ctrl]
  exact ⟨fun h0 => ⟨s.t, s.ctrlAction_of_bit0 h0⟩, fun h0 h1 => s.ctrlAction_of_bit1 h0 h1,
    fun h0 h1 => s.ctrlAction_of_no_bit h0 h1, rfl⟩

/-- STATUS reads 0 when nothing is in flight and its other fields are 0. -/
theorem State.statusWord_eq_zero {s : State} (hi : s.inflight = none) (hq : s.eq = false) (he : s.err = false)
    (hc : s.errcode = 0) : s.statusWord = 0 := by
  simp [State.statusWord, s.not_busy_iff.2 hi, hq, he, hc]

/-- After a power-on reset only R9 is left of the invariant, which speaks of no data register. -/
theorem State.Inv.powerOn {p : Params} (hp : p.wf = true) (dr : Four Digest) (ir : Limbs) (t : Digest) :
    (State.powerOn p dr ir t).Inv :=
  .of_idle hp (Nat.zero_le _) (by simp [State.powerOn]) (by simp [State.powerOn]) rfl

/-- Settles O47: the control fields of `State.powerOn` do not depend on the data registers' content. -/
theorem powerOnLeavesTheControlStateDefined : Obligations.PowerOnLeavesTheControlStateDefined := by
  intro p d n x
  exact ⟨rfl, rfl, State.statusWord_eq_zero rfl rfl rfl rfl, fun i j => by simp [State.powerOn],
    fun k => by simp [State.powerOn], rfl, fun hp => .powerOn hp d n x⟩

/-- Settles O48: `State.reset` is a power-on reset with parameters that meet R9. -/
theorem resetMeetsTheInvariant : Obligations.ResetMeetsTheInvariant :=
  .powerOn (by decide) _ _ _

end Sys2Proof.Machine
end

section
/-! What a completion changes (70_reset_and_hazards.md R286), and what a step changes of the block: the written
bits (10_state.md R44), the data registers (R31, R33), the message (R34) and EQ (R37). -/

namespace Sys2Proof.Machine

/-- A completion answers a next state exactly when its operands have been written, and then its effect. -/
theorem exec_next_iff {i : Instr} {s t : State} :
    exec i s = .next t ↔ s.operandsWritten i = true ∧ t = s.completed i := by
  rw [exec_eq]
  split <;> simp [*, eq_comm]

/-- The digest register that a command writes (10_state.md R31). -/
def WritesDigest (i : Instr) (r : DReg) : Prop :=
  i = .dhBytes r ∨ i = .dhWords r ∨ (∃ a b, i = .dhParent r a b) ∨ i = .cvFromint r

section

variable (s : State) (i : Instr)

@[simp] theorem State.completed_err : (s.completed i).err = s.err := by
  cases i <;> simp [State.completed]

@[simp] theorem State.completed_errcode : (s.completed i).errcode = s.errcode := by
  cases i <;> simp [State.completed]

@[simp] theorem State.completed_inflight : (s.completed i).inflight = none := by
  cases i <;> simp [State.completed]

theorem State.completed_eq : (s.completed i).eq = s.eq ∨ ∃ a b, i = .cvCmpeq a b := by
  cases i <;> simp [State.completed]

/-- A completion writes one digest register whole, its destination, or none. -/
theorem State.completed_digests :
    ((s.completed i).dr = s.dr ∧ (s.completed i).drWritten = s.drWritten) ∨
      ∃ r, WritesDigest i r ∧ (∀ k, k ≠ r → (s.completed i).dr.get k = s.dr.get k) ∧
        (s.completed i).drWritten = s.drWritten.set r (Eight.const true) := by
  cases i with
  | msgClear | msgAppd | cvToint | cvCmpeq => left; simp [State.completed]
  | dhBytes rd | dhWords rd | dhParent rd a b | cvFromint rd =>
    right
    exact ⟨rd, by simp [WritesDigest], fun k hk => by simp [State.completed, Four.get_set_other _ _ hk],
      by simp [State.completed]⟩

/-- A completion writes IR whole, which only CV.TOINT's does, or not at all. -/
theorem State.completed_limbs :
    ((s.completed i).ir = s.ir ∧ (s.completed i).irWritten = s.irWritten) ∨
      ∃ r, i = .cvToint r ∧ (s.completed i).irWritten = Eight.const true := by
  cases i <;> simp [State.completed]

/-- A completion appends to the message (MSG.APPD), empties it (MSG.CLEAR), or leaves it alone. -/
theorem State.completed_msg :
    (s.completed i).msg = s.msg ∨ (i = .msgClear ∧ (s.completed i).msg = []) ∨
      ∃ r, i = .msgAppd r ∧ (s.completed i).msg = s.msg ++ byteView (s.dr.get r) := by
  cases i <;> simp [State.completed]

end

/-- Settles O23: the completion's effect leaves the error fields alone and retires the command, and EQ is written by
CV.CMPEQ's only. -/
theorem completionsTouchNoFlagButEq : Obligations.CompletionsTouchNoFlagButEq := by
  intro i s t h
  obtain ⟨_, rfl⟩ := exec_next_iff.1 h
  exact ⟨s.completed_err i, s.completed_errcode i, State.not_busy_iff _ |>.2 (s.completed_inflight i),
    s.completed_eq i⟩

section

variable {s s' : State}

/-- A host write that reaches a register acts on it (20_memory.md R75). -/
theorem step_of_hostWrites {q : Target} {v : Word} (hwf : s.params.wf = true) (h : s.hostWrites q v) :
    step s = .next (s.popTurn.popPort.writeTarget q v) := by
  obtain ⟨hm, addr, bytes, rest, off, hp, ho, rfl⟩ := h
  simp [step, hwf, hm, hostTurn, hp, hostWrite, ho]

/-- What a step does to the block: a completion, a host write that reached a register, or nothing. -/
theorem step_block_cases (h : step s = .next s') :
    (∃ i, s.completes i ∧ s' = s.popTurn.completed i) ∨
    (∃ q v, s.hostWrites q v ∧ s' = s.popTurn.popPort.writeTarget q v) ∨
    ∃ p q r, s' = { s with port := p, turns := q, returned := r } := by
  obtain ⟨hwf, ⟨i, hc, he⟩ | ⟨_, _, rfl⟩ | ⟨hm, ht⟩⟩ := step_next_cases h
  · exact .inl ⟨i, hc, (exec_next_iff.1 he).2⟩
  · exact .inr (.inr ⟨_, _, _, rfl⟩)
  · rcases hostTurn_next_cases ht with ⟨_, rfl⟩ | ⟨_, _, _, _, v, _, _, _, rfl⟩ |
      ⟨addr, bytes, v, rest, off, hp, ho, rfl⟩ | ⟨_, _, rfl⟩
    · exact .inr (.inr ⟨_, _, _, rfl⟩)
    · exact .inr (.inr ⟨_, _, _, rfl⟩)
    · exact .inr (.inl ⟨_, v, ⟨hm, addr, bytes, rest, off, hp, ho, rfl⟩, rfl⟩)
    · refine .inr (.inr ?_)
      split <;> exact ⟨_, _, _, rfl⟩

end

/-- Settles O45: a completion other than CV.CMPEQ's and a write other than a soft reset leave EQ alone. -/
theorem eqChangesOnlyByCompareOrReset : Obligations.EqChangesOnlyByCompareOrReset := by
  intro s s' h hne
  obtain ⟨i, hc, rfl⟩ | ⟨q, v, hw, rfl⟩ | ⟨_, _, _, rfl⟩ := step_block_cases h
  · obtain heq | ⟨a, b, rfl⟩ := s.popTurn.completed_eq i
    · exact absurd heq hne
    · exact .inl ⟨a, b, hc⟩
  · obtain ⟨_, _, _, heq | ⟨rfl, h0⟩, _⟩ := s.popTurn.popPort.writeTarget_data q v
    · exact absurd heq hne
    · exact .inr ⟨v, hw, h0⟩
  · exact absurd rfl hne

/-- Settles O44: a completion appends or empties the message for MSG.APPD and MSG.CLEAR only, a host write for a push
port and a soft reset only. -/
theorem messageChangesOnlyByItsWriters : Obligations.MessageChangesOnlyByItsWriters := by
  intro s s' h hne
  obtain ⟨i, hc, rfl⟩ | ⟨q, v, hw, rfl⟩ | ⟨_, _, _, rfl⟩ := step_block_cases h
  · obtain hm | ⟨rfl, hm⟩ | ⟨r, rfl, hm⟩ := s.popTurn.completed_msg i
    · exact absurd hm hne
    · exact .inr ⟨hm, .inl hc⟩
    · exact .inl ⟨⟨_, hm⟩, .inr (.inr ⟨r, hc⟩)⟩
  · obtain ⟨_, _, hm | ⟨hm, rfl, h0⟩ | ⟨_, hq, bytes, hm, _⟩, _, _⟩ := s.popTurn.popPort.writeTarget_data q v
    · exact absurd hm hne
    · exact .inr ⟨hm, .inr ⟨v, hw, h0⟩⟩
    · refine .inl ⟨⟨bytes, by simp [hm]⟩, ?_⟩
      obtain rfl | rfl := hq
      · exact .inl ⟨v, hw⟩
      · exact .inr (.inl ⟨v, hw⟩)
  · exact absurd rfl hne

section

variable {s s' : State}

/-- A digest register changes at a completion into it or at a host write of one of its words: the other registers'
lanes are read as before (`Four.get_set_other`). -/
theorem step_changes_digest (h : step s = .next s') {r : DReg}
    (hne : s'.dr.get r ≠ s.dr.get r ∨ s'.drWritten.get r ≠ s.drWritten.get r) :
    (s.inflight = none ∧ ∃ j v, s.hostWrites (.dr r j) v) ∨ ∃ i, s.completes i ∧ WritesDigest i r := by
  obtain ⟨i, hc, rfl⟩ | ⟨q, v, hw, rfl⟩ | ⟨_, _, _, rfl⟩ := step_block_cases h
  · obtain ⟨hd, hb⟩ | ⟨r', hi, hd, hb⟩ := s.popTurn.completed_digests i
    · simp [hd, hb] at hne
    · by_cases hr : r = r'
      · exact .inr ⟨i, hc, hr ▸ hi⟩
      · simp [hd r hr, hb, Four.get_set_other _ _ hr] at hne
  · obtain ⟨⟨hd, hb⟩ | ⟨hn, r', j, rfl, he⟩, _⟩ := s.popTurn.popPort.writeTarget_data q v
    · simp [hd, hb] at hne
    · by_cases hr : r = r'
      · exact .inl ⟨hn, j, v, hr ▸ hw⟩
      · simp [he, Four.get_set_other _ _ hr] at hne
  · simp at hne

theorem step_changes_limbs (h : step s = .next s') (hne : s'.ir ≠ s.ir ∨ s'.irWritten ≠ s.irWritten) :
    (s.inflight = none ∧ ∃ k v, s.hostWrites (.ir k) v) ∨ ∃ r, s.completes (.cvToint r) := by
  obtain ⟨i, hc, rfl⟩ | ⟨q, v, hw, rfl⟩ | ⟨_, _, _, rfl⟩ := step_block_cases h
  · obtain ⟨hl, hb⟩ | ⟨r, rfl, _⟩ := s.popTurn.completed_limbs i
    · simp [hl, hb] at hne
    · exact .inr ⟨r, hc⟩
  · obtain ⟨_, ⟨hl, hb⟩ | ⟨hn, k, rfl, _⟩, _⟩ := s.popTurn.popPort.writeTarget_data q v
    · simp [hl, hb] at hne
    · exact .inl ⟨hn, k, v, hw⟩
  · simp at hne

end

/-- Settles O43, the digest registers and IR each by its own lemma. -/
theorem dataRegistersChangeOnlyByTheirWriters : Obligations.DataRegistersChangeOnlyByTheirWriters :=
  fun _ _ h => ⟨fun _ => step_changes_digest h, step_changes_limbs h⟩

/-- Marking a word, or a whole register, written clears no written bit. -/
theorem Eight.get_set_true_of_get {v : Eight Bool} {k : Fin 8} (j : Fin 8) (h : v.get k = true) :
    (v.set j true).get k = true := by
  by_cases hk : k = j
  · simp [hk]
  · rw [Eight.get_set_other _ _ hk, h]

theorem Four.get_set_true_of_get {v : Four (Eight Bool)} {w : Eight Bool} {r k : DReg} {j : Fin 8}
    (hw : (v.get r).get j = true → w.get j = true) (h : (v.get k).get j = true) :
    ((v.set r w).get k).get j = true := by
  by_cases hk : k = r
  · subst hk; simpa using hw h
  · rw [Four.get_set_other _ _ hk, h]

section

variable {s s' : State}

theorem step_keeps_drWritten (h : step s = .next s') {i : DReg} {j : Fin 8}
    (hb : (s.drWritten.get i).get j = true) : (s'.drWritten.get i).get j = true := by
  obtain ⟨c, _, rfl⟩ | ⟨q, v, _, rfl⟩ | ⟨_, _, _, rfl⟩ := step_block_cases h
  · obtain ⟨_, e⟩ | ⟨r, _, _, e⟩ := s.popTurn.completed_digests c <;> rw [e]
    · exact hb
    · exact Four.get_set_true_of_get (fun _ => Eight.get_const true j) hb
  · obtain ⟨⟨_, e⟩ | ⟨_, r, k, _, e⟩, _⟩ := s.popTurn.popPort.writeTarget_data q v <;> rw [e]
    · exact hb
    · exact Four.get_set_true_of_get (Eight.get_set_true_of_get k) hb
  · exact hb

theorem step_keeps_irWritten (h : step s = .next s') {k : Fin 8} (hb : s.irWritten.get k = true) :
    s'.irWritten.get k = true := by
  obtain ⟨c, _, rfl⟩ | ⟨q, v, _, rfl⟩ | ⟨_, _, _, rfl⟩ := step_block_cases h
  · obtain ⟨_, e⟩ | ⟨_, _, e⟩ := s.popTurn.completed_limbs c <;> rw [e]
    · exact hb
    · exact Eight.get_const true k
  · obtain ⟨_, ⟨_, e⟩ | ⟨_, l, _, e⟩, _⟩ := s.popTurn.popPort.writeTarget_data q v <;> rw [e]
    · exact hb
    · exact Eight.get_set_true_of_get l hb
  · exact hb

/-- A soft reset leaves the written bits as they are (10_state.md R45). -/
theorem step_softResets_written (h : step s = .next s') (hr : s.softResets) :
    s'.drWritten = s.drWritten ∧ s'.irWritten = s.irWritten := by
  obtain ⟨v, hw, h0⟩ := hr
  rw [step_of_hostWrites (step_next_cases h).1 hw, State.writeTarget_ctrl, State.ctrlAction_of_bit0 _ h0] at h
  cases h
  exact ⟨rfl, rfl⟩

end

/-- Settles O42: a written bit is only ever set, by a write of its word or a completion into its register. -/
theorem writtenBitsStaySet : Obligations.WrittenBitsStaySet :=
  fun _ _ h => ⟨fun _ _ => step_keeps_drWritten h, fun _ => step_keeps_irWritten h, step_softResets_written h⟩

end Sys2Proof.Machine
end

section
/-! Unwritten data words (10_state.md R44): when a step stops at one, and that steps which use none do not depend on
the written bits. -/

namespace Sys2Proof.Machine

section

variable {s : State}

theorem exec_of_unwritten {i : Instr} (h : s.operandsWritten i = false) : exec i s = .fault .unwrittenOperand := by
  rw [exec_eq, if_neg (by simp [h])]

theorem step_of_completes {i : Instr} (hwf : s.params.wf = true) (h : s.completes i) : step s = exec i s.popTurn := by
  obtain ⟨hm, hi⟩ := h
  simp [step, hwf, hm, engineTurn, hi]

theorem step_of_host (hwf : s.params.wf = true) (hm : s.mover = .host) : step s = hostTurn s.popTurn := by
  simp [step, hwf, hm]

/-- A step that stops at a fault is a completion or a host turn. -/
theorem step_fault_cases {f : Fault} (h : step s = .fault f) :
    (∃ i, s.completes i ∧ exec i s.popTurn = .fault f) ∨ (s.mover = .host ∧ hostTurn s.popTurn = .fault f) := by
  unfold step at h
  split at h
  · split at h
    · next hm =>
      unfold engineTurn at h
      split at h
      · next i hi => exact .inl ⟨i, ⟨hm, by simpa using hi⟩, h⟩
      · cases h
    · next hm => exact .inr ⟨hm, h⟩
  · cases h

/-- A host turn stops at an access that is none to the block (20_memory.md R72) or at a read of an unwritten word. -/
theorem hostTurn_fault_cases {f : Fault} (h : hostTurn s = .fault f) :
    f = .badBusAccess ∨ (f = .unwrittenRead ∧ ∃ addr bytes rest off, s.port = .read addr bytes :: rest ∧
      busOffset s.params addr bytes = some off ∧ s.targetWritten (targetOf off) = false) := by
  unfold hostTurn at h
  split at h
  · cases h
  · next addr bytes rest hp =>
    unfold hostRead at h
    split at h
    · exact .inl (Host.Outcome.fault.inj h).symm
    · next off ho =>
      cases hq : s.popPort.targetWritten (targetOf off) with
      | true =>
        obtain ⟨v, hv⟩ := State.readTarget_of_written hq
        rw [hv] at h; cases h
      | false =>
        rw [(State.readTarget_of_not_written hq).1] at h
        exact .inr ⟨(Host.Outcome.fault.inj h).symm, addr, bytes, rest, off, hp, ho, hq⟩
  · unfold hostWrite at h
    split at h
    · exact .inl (Host.Outcome.fault.inj h).symm
    · cases h
  · cases h

theorem step_unwrittenOperand_iff (hwf : s.params.wf = true) :
    step s = .fault .unwrittenOperand ↔ s.usesUnwrittenOperand := by
  constructor
  · intro h
    obtain ⟨i, hc, he⟩ | ⟨_, ht⟩ := step_fault_cases h
    · refine ⟨i, hc, ?_⟩
      rw [exec_eq] at he
      split at he
      · cases he
      · next hn => exact Bool.eq_false_iff.2 hn
    · obtain hf | ⟨hf, _⟩ := hostTurn_fault_cases ht <;> cases hf
  · rintro ⟨i, hc, hn⟩
    rw [step_of_completes hwf hc]
    exact exec_of_unwritten hn

theorem step_unwrittenRead_iff (hwf : s.params.wf = true) :
    step s = .fault .unwrittenRead ↔ s.readsUnwritten := by
  constructor
  · intro h
    obtain ⟨i, _, he⟩ | ⟨hm, ht⟩ := step_fault_cases h
    · cases exec_fault he
    · obtain hf | ⟨_, hr⟩ := hostTurn_fault_cases ht
      · cases hf
      · exact ⟨hm, hr⟩
  · rintro ⟨hm, addr, bytes, rest, off, hp, ho, hq⟩
    have hv : s.popTurn.popPort.readTarget (targetOf off) = .error .unwrittenRead :=
      (State.readTarget_of_not_written hq).1
    simp [step_of_host hwf hm, hostTurn, hp, hostRead, ho, hv]

/-- A fault is the outcome of every longer run. -/
theorem run_of_fault {f : Fault} (k : Nat) (h : step s = .fault f) : run (k + 1) s = .fault f := by
  simp [run, h]

theorem runEnd_of_fault {f : Fault} (h : step s = .fault f) : s.runEnd = none := by
  simp [State.runEnd, h]

end

/-! Other written bits: each operation of the machine answers the same state up to the written bits. -/

section

variable (s : State) (dw : Four (Eight Bool)) (iw : Eight Bool)

theorem State.commitHash_withWritten (H : Primitive) (rd : DReg) (x : Digest) :
    (s.withWritten dw iw).commitHash H rd x =
      (s.commitHash H rd x).withWritten (dw.set rd (Eight.const true)) iw := rfl

theorem State.completed_withWritten (i : Instr) :
    ∃ dw' iw', (s.withWritten dw iw).completed i = (s.completed i).withWritten dw' iw' := by
  cases i with
  | msgClear | msgAppd _ | cvToint _ | cvFromint _ | cvCmpeq _ _ => exact ⟨_, _, rfl⟩
  | dhBytes rd | dhWords rd | dhParent rd _ _ => exact ⟨_, _, s.commitHash_withWritten dw iw _ rd _⟩

theorem State.raiseError_withWritten (c : ErrorCode) :
    (s.withWritten dw iw).raiseError c = (s.raiseError c).withWritten dw iw := by
  unfold State.raiseError
  rw [State.withWritten_err]
  split <;> rfl

theorem State.ctrlAction_withWritten (v : Word) :
    (s.withWritten dw iw).ctrlAction v = (s.ctrlAction v).withWritten dw iw := by
  unfold State.ctrlAction
  split
  · rfl
  · split <;> rfl

theorem State.pushBytes_withWritten (bytes : List Byte) :
    (s.withWritten dw iw).pushBytes bytes = (s.pushBytes bytes).withWritten dw iw := by
  have ho : (s.withWritten dw iw).wouldOverflow bytes.length = s.wouldOverflow bytes.length := rfl
  unfold State.pushBytes
  rw [ho]
  split
  · exact s.raiseError_withWritten dw iw _
  · rfl

theorem issueCheck_withWritten (i : Instr) : issueCheck (s.withWritten dw iw) i = issueCheck s i := by
  cases i <;> rfl

theorem State.issue_withWritten (w : Word) :
    (s.withWritten dw iw).issue w = (s.issue w).withWritten dw iw := by
  have hb : (s.withWritten dw iw).busy = s.busy := rfl
  unfold State.issue
  rw [hb]
  split
  · exact s.raiseError_withWritten dw iw _
  · split
    · exact s.raiseError_withWritten dw iw _
    · rw [issueCheck_withWritten]
      split
      · exact s.raiseError_withWritten dw iw _
      · rfl

theorem State.idleWrite_withWritten (v : Word) (q : Target) :
    ∃ dw' iw', (s.withWritten dw iw).idleWrite v q = (s.idleWrite v q).withWritten dw' iw' := by
  cases q with
  | id | ctrl | status | msgLen | msgCap | unmapped | dr _ _ | ir _ => exact ⟨_, _, rfl⟩
  | cmd => exact ⟨_, _, s.issue_withWritten dw iw v⟩
  | msgPush8 | msgPush32 => exact ⟨_, _, s.pushBytes_withWritten dw iw _⟩

theorem State.writeTarget_withWritten (q : Target) (v : Word) :
    ∃ dw' iw', (s.withWritten dw iw).writeTarget q v = (s.writeTarget q v).withWritten dw' iw' := by
  have hb : (s.withWritten dw iw).busy = s.busy := rfl
  unfold State.writeTarget
  rw [hb]
  split
  · exact ⟨_, _, s.raiseError_withWritten dw iw _⟩
  · split
    · exact ⟨_, _, s.ctrlAction_withWritten dw iw v⟩
    · split
      · exact ⟨_, _, s.raiseError_withWritten dw iw _⟩
      · exact s.idleWrite_withWritten dw iw v q

variable {s dw iw}

/-- A read of a word that both states have written gives the same value. -/
theorem State.readTarget_withWritten {q : Target} (h : s.targetWritten q = true)
    (h' : (s.withWritten dw iw).targetWritten q = true) :
    (s.withWritten dw iw).readTarget q = s.readTarget q := by
  cases q with
  | id | ctrl | status | cmd | msgLen | msgCap | msgPush8 | msgPush32 | unmapped => rfl
  | dr _ _ | ir _ => simp_all [State.targetWritten, State.readTarget]

/-- A host turn whose read, if it is one, uses no unwritten word in either state. -/
theorem hostTurn_withWritten
    (h : ∀ addr bytes rest off, s.port = .read addr bytes :: rest → busOffset s.params addr bytes = some off →
      s.targetWritten (targetOf off) = true ∧ (s.withWritten dw iw).targetWritten (targetOf off) = true) :
    ∃ dw' iw', hostTurn (s.withWritten dw iw) = mapNext (fun t => t.withWritten dw' iw') (hostTurn s) := by
  unfold hostTurn
  rw [State.withWritten_port]
  split
  · exact ⟨dw, iw, rfl⟩
  · next addr bytes rest hp =>
    refine ⟨dw, iw, ?_⟩
    show hostRead addr bytes (s.popPort.withWritten dw iw) = _
    unfold hostRead
    rw [State.withWritten_params]
    cases ho : busOffset s.popPort.params addr bytes with
    | none => rfl
    | some off =>
      obtain ⟨hw, hw'⟩ := h addr bytes rest off hp ho
      have hr : (s.popPort.withWritten dw iw).readTarget (targetOf off) = s.popPort.readTarget (targetOf off) :=
        State.readTarget_withWritten hw hw'
      show withOperand ((s.popPort.withWritten dw iw).readTarget (targetOf off)) _ = _
      rw [hr]
      exact withOperand_mapNext _ _ _ _ fun _ => rfl
  · next addr bytes v rest hp =>
    show ∃ dw' iw', hostWrite addr bytes v (s.popPort.withWritten dw iw) = _
    unfold hostWrite
    rw [State.withWritten_params]
    cases busOffset s.popPort.params addr bytes with
    | none => exact ⟨dw, iw, rfl⟩
    | some off =>
      obtain ⟨dw', iw', e⟩ := s.popPort.writeTarget_withWritten dw iw (targetOf off) v
      exact ⟨dw', iw', congrArg _ e⟩
  · refine ⟨dw, iw, ?_⟩
    have hb : (s.withWritten dw iw).busy = s.busy := rfl
    unfold hostPoll
    rw [hb]
    split <;> rfl

theorem operandsWritten_of_completes {i : Instr} (hn : ¬ s.usesUnwrittenOperand) (hc : s.completes i) :
    s.operandsWritten i = true :=
  Bool.of_not_eq_false fun h => hn ⟨i, hc, h⟩

theorem targetWritten_of_hostRead {addr bytes off : Nat} {rest : List HostOp} (hn : ¬ s.readsUnwritten)
    (hm : s.mover = .host) (hp : s.port = .read addr bytes :: rest) (ho : busOffset s.params addr bytes = some off) :
    s.targetWritten (targetOf off) = true :=
  Bool.of_not_eq_false fun h => hn ⟨hm, addr, bytes, rest, off, hp, ho, h⟩

/-- An engine turn whose completion, if it is one, uses no unwritten word in either state. -/
theorem engineTurn_withWritten
    (h : ∀ i, s.inflight = some i →
      s.operandsWritten i = true ∧ (s.withWritten dw iw).operandsWritten i = true) :
    ∃ dw' iw', engineTurn (s.withWritten dw iw) = mapNext (fun t => t.withWritten dw' iw') (engineTurn s) := by
  unfold engineTurn
  rw [State.withWritten_inflight]
  split
  · next i hi =>
    obtain ⟨hw, hw'⟩ := h i hi
    obtain ⟨dw', iw', e⟩ := s.completed_withWritten dw iw i
    refine ⟨dw', iw', ?_⟩
    rw [exec_eq, exec_eq, if_pos hw, if_pos hw', e]
    rfl
  · exact ⟨dw, iw, rfl⟩

/-- A step that uses no unwritten word does the same whatever the written bits are. -/
theorem step_withWritten (h : ¬ (s.usesUnwrittenOperand ∨ s.readsUnwritten))
    (h' : ¬ ((s.withWritten dw iw).usesUnwrittenOperand ∨ (s.withWritten dw iw).readsUnwritten)) :
    ∃ dw' iw', step (s.withWritten dw iw) = mapNext (fun t => t.withWritten dw' iw') (step s) := by
  obtain ⟨ho, hr⟩ := not_or.1 h
  obtain ⟨ho', hr'⟩ := not_or.1 h'
  have hm : (s.withWritten dw iw).mover = s.mover := rfl
  unfold step
  rw [State.withWritten_params, hm]
  split
  · cases hmv : s.mover with
    | engine =>
      exact engineTurn_withWritten (s := s.popTurn) fun i hi =>
        ⟨operandsWritten_of_completes (s := s) ho ⟨hmv, hi⟩,
          operandsWritten_of_completes (s := s.withWritten dw iw) ho' ⟨hmv, hi⟩⟩
    | host =>
      exact hostTurn_withWritten (s := s.popTurn) fun _ _ _ _ hp hb =>
        ⟨targetWritten_of_hostRead (s := s) hr hmv hp hb,
          targetWritten_of_hostRead (s := s.withWritten dw iw) hr' hmv hp hb⟩
  · exact ⟨dw, iw, rfl⟩

end

/-! Which words each command and each read use. -/

section

variable {s : State}

theorem State.not_digestWritten {r : DReg} {j : Fin 8} (h : (s.drWritten.get r).get j = false) :
    s.digestWritten r = false :=
  Bool.eq_false_iff.2 fun hw => by simp [(s.digestWritten_iff r).1 hw j] at h

theorem State.not_limbsWritten {k : Fin 8} (h : s.irWritten.get k = false) : s.limbsWritten = false :=
  Bool.eq_false_iff.2 fun hw => by simp [s.limbsWritten_iff.1 hw k] at h

/-- A digest register with an unwritten word stops every command that has it as an operand, in either position. -/
theorem exec_of_unwritten_digest {r : DReg} (h : s.digestWritten r = false) :
    exec (.msgAppd r) s = .fault .unwrittenOperand ∧ exec (.cvToint r) s = .fault .unwrittenOperand ∧
      ∀ a rd : DReg, exec (.cvCmpeq r a) s = .fault .unwrittenOperand ∧
        exec (.cvCmpeq a r) s = .fault .unwrittenOperand ∧
        exec (.dhParent rd r a) s = .fault .unwrittenOperand ∧
        exec (.dhParent rd a r) s = .fault .unwrittenOperand := by
  refine ⟨?_, ?_, fun a rd => ⟨?_, ?_, ?_, ?_⟩⟩ <;> apply exec_of_unwritten <;> simp [State.operandsWritten, h]

theorem exec_completes_iff (i : Instr) : (∃ t, exec i s = .next t) ↔ s.operandsWritten i = true := by
  simp [exec_next_iff]

/-- With every data word written, no command and no read meets an unwritten one. -/
theorem operandsWritten_of_all (hd : ∀ r j, (s.drWritten.get r).get j = true) (hi : ∀ k, s.irWritten.get k = true)
    (i : Instr) : s.operandsWritten i = true := by
  have hw : ∀ r, s.digestWritten r = true := fun r => (s.digestWritten_iff r).2 (hd r)
  cases i <;> simp [State.operandsWritten, hw, s.limbsWritten_iff.2 hi]

theorem targetWritten_of_all (hd : ∀ r j, (s.drWritten.get r).get j = true) (hi : ∀ k, s.irWritten.get k = true)
    (q : Target) : s.targetWritten q = true := by
  cases q <;> simp [State.targetWritten, hd, hi]

end

/-- Settles O41: the step's two faults by its inversion, the independence of the written bits by its commuting with
`withWritten`, and each command's and read's own words by `exec_eq` and `readTarget`. -/
theorem unwrittenDataFaults : Obligations.UnwrittenDataFaults := by
  refine ⟨fun s hwf => ⟨step_unwrittenOperand_iff hwf, step_unwrittenRead_iff hwf⟩,
    fun s f k h => ⟨run_of_fault k h, runEnd_of_fault h⟩, fun s dw iw h h' => step_withWritten h h',
    fun s => ⟨fun r j h => ?_, fun k rd h => ?_, exec_completes_iff, fun hd hi => ?_⟩⟩
  · obtain ⟨happd, htoint, hpair⟩ := exec_of_unwritten_digest (State.not_digestWritten h)
    exact ⟨happd, htoint, (State.readTarget_of_not_written (q := .dr r j) h).1, hpair⟩
  · exact ⟨exec_of_unwritten (State.not_limbsWritten h), (State.readTarget_of_not_written (q := .ir k) h).1⟩
  · exact ⟨operandsWritten_of_all hd hi, fun q => State.readTarget_of_written (targetWritten_of_all hd hi q)⟩

end Sys2Proof.Machine
end

section
/-! The register map (20_memory.md R71, R74). -/

namespace Sys2Proof.Machine

theorem targetOf_dr (i : DReg) (j : Fin 8) : targetOf (0x100 + 32 * i.val + 4 * j.val) = .dr i j := by
  fin_cases i <;> fin_cases j <;> rfl

theorem targetOf_ir (k : Fin 8) : targetOf (0x180 + 4 * k.val) = .ir k := by
  fin_cases k <;> rfl

/-- An aligned offset of the window is a control register's, a digest word's, a limb's, or lies in one of the two
unmapped ranges. -/
theorem alignedOffset_cases {off : Nat} (hlt : off < 4096) (hal : off % 4 = 0) :
    off ∈ [0x000, 0x004, 0x008, 0x00C, 0x010, 0x014, 0x018, 0x01C] ∨
    (∃ (i : DReg) (j : Fin 8), off = 0x100 + 32 * i.val + 4 * j.val) ∨
    (∃ k : Fin 8, off = 0x180 + 4 * k.val) ∨
    ((0x020 ≤ off ∧ off ≤ 0x0FC) ∨ 0x1A0 ≤ off) := by
  by_cases hc : off < 0x020
  · left; simp only [List.mem_cons, List.not_mem_nil, or_false]; omega
  by_cases hd : 0x100 ≤ off ∧ off < 0x180
  · right; left
    exact ⟨⟨(off - 0x100) / 32, by omega⟩, ⟨(off - 0x100) % 32 / 4, by omega⟩, by simp only; omega⟩
  by_cases hi : 0x180 ≤ off ∧ off < 0x1A0
  · right; right; left
    exact ⟨⟨(off - 0x180) / 4, by omega⟩, by simp only; omega⟩
  · right; right; right; omega

theorem targetOf_unmapped {off : Nat} (h : (0x020 ≤ off ∧ off ≤ 0x0FC) ∨ 0x1A0 ≤ off) :
    targetOf off = .unmapped := by
  unfold targetOf
  repeat rw [if_neg (by omega)]

theorem targetOf_eq_unmapped_iff {off : Nat} (hlt : off < 4096) (hal : off % 4 = 0) :
    targetOf off = .unmapped ↔ (0x020 ≤ off ∧ off ≤ 0x0FC) ∨ 0x1A0 ≤ off := by
  refine ⟨fun ht => ?_, targetOf_unmapped⟩
  obtain hc | ⟨i, j, rfl⟩ | ⟨k, rfl⟩ | hu := alignedOffset_cases hlt hal
  · fin_cases hc <;> cases ht
  · rw [targetOf_dr] at ht; cases ht
  · rw [targetOf_ir] at ht; cases ht
  · exact hu

/-- The register at an aligned offset that is not unmapped has that offset. -/
theorem offsetOf_targetOf {off : Nat} (hlt : off < 4096) (hal : off % 4 = 0) (hm : targetOf off ≠ .unmapped) :
    offsetOf (targetOf off) = some off := by
  obtain hc | ⟨i, j, rfl⟩ | ⟨k, rfl⟩ | hu := alignedOffset_cases hlt hal
  · fin_cases hc <;> rfl
  · rw [targetOf_dr]; rfl
  · rw [targetOf_ir]; rfl
  · exact absurd (targetOf_unmapped hu) hm

/-- A register's offset is an aligned one of the window, and names it. -/
theorem targetOf_of_offsetOf {t : Target} {off : Nat} (h : offsetOf t = some off) :
    off < 4096 ∧ off % 4 = 0 ∧ targetOf off = t := by
  cases t with
  | unmapped => cases h
  | dr i j =>
    obtain rfl := Option.some.inj h
    exact ⟨by omega, by omega, targetOf_dr i j⟩
  | ir k =>
    obtain rfl := Option.some.inj h
    exact ⟨by omega, by omega, targetOf_ir k⟩
  | id | ctrl | status | cmd | msgLen | msgCap | msgPush8 | msgPush32 =>
    obtain rfl := Option.some.inj h
    decide

theorem offsetOf_eq_some_iff {t : Target} {off : Nat} :
    offsetOf t = some off ↔ t ≠ .unmapped ∧ off < 4096 ∧ off % 4 = 0 ∧ targetOf off = t := by
  constructor
  · intro h
    have hm : t ≠ .unmapped := by
      rintro rfl
      cases h
    exact ⟨hm, targetOf_of_offsetOf h⟩
  · rintro ⟨hm, hlt, hal, rfl⟩
    exact offsetOf_targetOf hlt hal hm

/-- The read-only and unmapped targets, listed. -/
theorem Target.rejectsWrite_iff {t : Target} :
    t.rejectsWrite = true ↔ t ∈ [Target.id, .status, .msgLen, .msgCap, .unmapped] := by
  cases t <;> simp [Target.rejectsWrite]

/-- Settles O13: each aligned offset lies in one range of the map, and each range's targets have their offsets. -/
theorem offsetsNameTheirRegisters : Obligations.OffsetsNameTheirRegisters :=
  ⟨⟨rfl, rfl, rfl, rfl, rfl, rfl, rfl, rfl⟩, targetOf_dr, targetOf_ir, fun _ => targetOf_eq_unmapped_iff,
    fun _ _ => offsetOf_eq_some_iff, fun _ => Target.rejectsWrite_iff⟩

end Sys2Proof.Machine
end

section
/-! What a host write to a register does, branch by branch (20_memory.md R75), and what a read after it gives
(R73). -/

namespace Sys2Proof.Machine

section

variable {s : State} {t : Target}

theorem State.writeTarget_of_rejects (v : Word) (h : t.rejectsWrite = true) :
    s.writeTarget t v = s.raiseError .badAccess := if_pos h

theorem State.writeTarget_of_busy (v : Word) (hr : t.rejectsWrite = false) (hc : t ≠ .ctrl)
    (hi : s.inflight ≠ none) : s.writeTarget t v = s.raiseError .busy := by
  simp [State.writeTarget, hr, hc, s.busy_iff.2 hi]

theorem State.writeTarget_of_idle (v : Word) (hr : t.rejectsWrite = false) (hc : t ≠ .ctrl)
    (hi : s.inflight = none) : s.writeTarget t v = s.idleWrite v t := by
  simp [State.writeTarget, hr, hc, s.not_busy_iff.2 hi]

theorem State.writeTarget_dr (i : DReg) (j : Fin 8) (v : Word) (hi : s.inflight = none) :
    s.writeTarget (.dr i j) v = s.writeDigestWord i j v :=
  State.writeTarget_of_idle v rfl (by simp) hi

theorem State.writeTarget_ir (k : Fin 8) (v : Word) (hi : s.inflight = none) :
    s.writeTarget (.ir k) v = s.writeLimb k v :=
  State.writeTarget_of_idle v rfl (by simp) hi

end

/-- Settles O15: the targets of each branch are those whose earlier checks do not apply. -/
theorem hostWritesTakeTheFirstStepThatApplies : Obligations.HostWritesTakeTheFirstStepThatApplies := by
  intro s v
  refine ⟨fun t ht => State.writeTarget_of_rejects v (Target.rejectsWrite_iff.2 ht), s.writeTarget_ctrl v,
    fun hi t ht => ?_, fun hi => ⟨?_, ?_, ?_, fun i j => State.writeTarget_dr i j v hi,
      fun k => State.writeTarget_ir k v hi⟩⟩
  · obtain ⟨hl, hc⟩ : t ∉ [Target.id, .status, .msgLen, .msgCap, .unmapped] ∧ t ∉ [Target.ctrl] :=
      not_or.1 (mt List.mem_append.2 ht)
    exact State.writeTarget_of_busy v (Bool.eq_false_iff.2 (hl ∘ Target.rejectsWrite_iff.1)) (by simpa using hc) hi
  all_goals exact State.writeTarget_of_idle v rfl (by simp) hi

section

variable (s : State) (v : Word)

theorem State.readTarget_writeDigestWord_same (i : DReg) (j : Fin 8) :
    (s.writeDigestWord i j v).readTarget (.dr i j) = .ok v := by
  simp [State.readTarget]

theorem State.readTarget_writeLimb_same (k : Fin 8) : (s.writeLimb k v).readTarget (.ir k) = .ok v := by
  simp [State.readTarget]

variable {t : Target}

theorem State.readTarget_writeDigestWord_other {i : DReg} {j : Fin 8} (h : t ≠ .dr i j) :
    (s.writeDigestWord i j v).readTarget t = s.readTarget t := by
  cases t with
  | dr i' j' =>
    by_cases hi : i' = i
    · subst hi
      have hj : j' ≠ j := fun hj => h (hj ▸ rfl)
      simp [State.readTarget, Eight.get_set_other _ _ hj]
    · simp [State.readTarget, Four.get_set_other _ _ hi]
  | _ => rfl

theorem State.readTarget_writeLimb_other {k : Fin 8} (h : t ≠ .ir k) :
    (s.writeLimb k v).readTarget t = s.readTarget t := by
  cases t with
  | ir k' =>
    have hk : k' ≠ k := fun hk => h (hk ▸ rfl)
    simp [State.readTarget, Eight.get_set_other _ _ hk]
  | _ => rfl

end

/-- Settles O16: with BUSY = 0 the write is the store of one word, and a store is read at its own word only. -/
theorem dataWordReadsBack : Obligations.DataWordReadsBack := by
  rintro s _ v hi (⟨i, j, rfl⟩ | ⟨k, rfl⟩)
  · rw [State.writeTarget_dr i j v hi]
    exact ⟨s.readTarget_writeDigestWord_same v i j, fun _ => s.readTarget_writeDigestWord_other v⟩
  · rw [State.writeTarget_ir k v hi]
    exact ⟨s.readTarget_writeLimb_same v k, fun _ => s.readTarget_writeLimb_other v⟩

end Sys2Proof.Machine
end

section
/-! The host's accesses through `step` (20_memory.md R72 to R75, R79): which register an access reaches, and which
accesses reach none. -/

namespace Sys2Proof.Machine

section

variable {s : State} {addr bytes : Nat} {rest : List HostOp}

/-- The host's access and its turn are used up. -/
theorem State.popTurn_popPort_of_port {op : HostOp} (hp : s.port = op :: rest) :
    s.popTurn.popPort = { s with port := rest, turns := s.turns.tail } := by
  simp [State.popTurn, State.popPort, hp]

theorem step_of_read (hwf : s.params.wf = true) (hm : s.mover = .host) (hp : s.port = .read addr bytes :: rest) :
    step s = hostRead addr bytes s.popTurn.popPort := by
  simp [step_of_host hwf hm, hostTurn, hp]

theorem step_of_write {v : Word} (hwf : s.params.wf = true) (hm : s.mover = .host)
    (hp : s.port = .write addr bytes v :: rest) : step s = hostWrite addr bytes v s.popTurn.popPort := by
  simp [step_of_host hwf hm, hostTurn, hp]

/-- A read of a register goes on with the register's value, which only the host's side of the port takes up. -/
theorem step_of_read_at {off : Nat} (hwf : s.params.wf = true) (hm : s.mover = .host)
    (hp : s.port = .read addr bytes :: rest) (ho : busOffset s.params addr bytes = some off) :
    step s = withOperand (s.readTarget (targetOf off)) fun x =>
      .next { s with port := rest, turns := s.turns.tail, returned := x :: s.returned } := by
  have hr : s.popTurn.popPort.readTarget (targetOf off) = s.readTarget (targetOf off) :=
    State.readTarget_congr rfl rfl rfl rfl rfl rfl rfl rfl rfl rfl _
  have ho' : busOffset s.popTurn.popPort.params addr bytes = some off := ho
  rw [step_of_read hwf hm hp, hostRead, ho']
  simp only [hr]
  rw [State.popTurn_popPort_of_port hp]
  rfl

/-- An access has no offset exactly when it is not 32 bits wide, outside the window or not aligned. -/
theorem busOffset_eq_none_iff {p : Params} :
    busOffset p addr bytes = none ↔
      bytes ≠ 4 ∨ addr < p.base ∨ p.base + 4096 ≤ addr ∨ (addr - p.base) % 4 ≠ 0 := by
  unfold busOffset windowBytes
  split
  · simp only [reduceCtorEq, false_iff]; omega
  · simp only [true_iff]; omega

theorem hostRead_badBusAccess_iff :
    hostRead addr bytes s = .fault .badBusAccess ↔ busOffset s.params addr bytes = none := by
  unfold hostRead
  cases busOffset s.params addr bytes with
  | none => simp
  | some off =>
    cases hw : s.targetWritten (targetOf off) with
    | true =>
      obtain ⟨x, hx⟩ := State.readTarget_of_written hw
      simp [hx]
    | false => simp [(State.readTarget_of_not_written hw).1]

theorem hostWrite_badBusAccess_iff {v : Word} :
    hostWrite addr bytes v s = .fault .badBusAccess ↔ busOffset s.params addr bytes = none := by
  unfold hostWrite
  cases busOffset s.params addr bytes <;> simp

theorem step_badBusAccess_iff {v : Word} (hwf : s.params.wf = true) (hm : s.mover = .host)
    (hp : s.port = .read addr bytes :: rest ∨ s.port = .write addr bytes v :: rest) :
    step s = .fault .badBusAccess ↔ busOffset s.params addr bytes = none := by
  rcases hp with hp | hp
  · rw [step_of_read hwf hm hp]
    exact hostRead_badBusAccess_iff
  · rw [step_of_write hwf hm hp]
    exact hostWrite_badBusAccess_iff

/-- A completion stops at UnwrittenOperand only, a host turn at the two faults of an access. -/
theorem step_fault_kinds {f : Fault} (h : step s = .fault f) :
    (s.mover = .host ∧ (f = .badBusAccess ∨ f = .unwrittenRead)) ∨
      (s.mover = .engine ∧ f = .unwrittenOperand) := by
  obtain ⟨i, ⟨hm, _⟩, he⟩ | ⟨hm, ht⟩ := step_fault_cases h
  · exact .inr ⟨hm, exec_fault he⟩
  · exact .inl ⟨hm, (hostTurn_fault_cases ht).imp_right And.left⟩

end

/-- Settles O8: an access stops the host at BadBusAccess exactly when it has no offset. -/
theorem badBusAccessFaults : Obligations.BadBusAccessFaults :=
  ⟨fun _ _ _ _ _ hwf hm hp => (step_badBusAccess_iff hwf hm hp).trans busOffset_eq_none_iff,
    fun _ _ => step_fault_kinds⟩

/-- Settles O7: an aligned offset of the window is an access's offset, so a write acts on its target, and a read goes
on with what `readTarget` gives: a value exactly if the target's written bit is set. -/
theorem hostAccessReachesItsRegister : Obligations.HostAccessReachesItsRegister := by
  intro s off v rest hwf hm hlt hal
  have ho : busOffset s.params (s.params.base + off) 4 = some off := busOffset_eq_some.2 ⟨rfl, hlt, hal, rfl⟩
  have hwrite : s.port = .write (s.params.base + off) 4 v :: rest →
      step s = .next (State.writeTarget { s with port := rest, turns := s.turns.tail } (targetOf off) v) := by
    intro hp
    rw [step_of_hostWrites hwf ⟨hm, _, _, _, _, hp, ho, rfl⟩, State.popTurn_popPort_of_port hp]
  refine ⟨hwrite, fun hp => ?_, fun hp hu => ?_⟩
  · rw [step_of_read_at hwf hm hp ho]
    refine ⟨fun hw => ?_, fun hw => ?_, fun hu => ?_⟩
    · obtain ⟨x, hx⟩ := State.readTarget_of_written hw
      exact ⟨x, hx, by rw [hx]; rfl⟩
    · obtain ⟨he, ht⟩ := State.readTarget_of_not_written hw
      exact ⟨he, by rw [he]; rfl, ht⟩
    · rw [hu]; rfl
  · rw [hwrite hp, hu, State.writeTarget_of_rejects v rfl]

/-- Settles O9: of the turns that answer a next state only a read's has a read at the head of the port, and it
delivers one value. -/
theorem noReadHasASideEffect : Obligations.NoReadHasASideEffect := by
  intro s s' addr bytes rest hm hp h
  obtain ⟨_, ⟨_, ⟨he, _⟩, _⟩ | ⟨he, _, _⟩ | ⟨_, ht⟩⟩ := step_next_cases h
  · simp [hm] at he
  · simp [hm] at he
  · obtain ⟨hn, _⟩ | ⟨_, _, _, _, x, _, _, _, rfl⟩ | ⟨_, _, _, _, _, hw, _⟩ | ⟨_, hw, _⟩ := hostTurn_next_cases ht
    · simp [hp] at hn
    · exact ⟨x, by rw [State.popTurn_popPort_of_port hp]; rfl⟩
    · simp [hp] at hw
    · simp [hp] at hw

end Sys2Proof.Machine
end

section
/-! HOST_BUS_ENDIAN (20_memory.md R78): no operation of the machine reads it. -/

namespace Sys2Proof.Machine

/-- `s` with another HOST_BUS_ENDIAN. -/
def State.withBusEndian (s : State) (e : BusEndian) : State :=
  { s with params := { s.params with busEndian := e } }

section

variable (s : State) (e : BusEndian)

theorem State.raiseError_withBusEndian (c : ErrorCode) :
    (s.withBusEndian e).raiseError c = (s.raiseError c).withBusEndian e := by
  have he : (s.withBusEndian e).err = s.err := rfl
  unfold State.raiseError
  rw [he]
  split <;> rfl

theorem State.ctrlAction_withBusEndian (v : Word) :
    (s.withBusEndian e).ctrlAction v = (s.ctrlAction v).withBusEndian e := by
  unfold State.ctrlAction
  split
  · rfl
  · split <;> rfl

theorem State.pushBytes_withBusEndian (bytes : List Byte) :
    (s.withBusEndian e).pushBytes bytes = (s.pushBytes bytes).withBusEndian e := by
  have ho : (s.withBusEndian e).wouldOverflow bytes.length = s.wouldOverflow bytes.length := rfl
  unfold State.pushBytes
  rw [ho]
  split
  · exact s.raiseError_withBusEndian e _
  · rfl

theorem issueCheck_withBusEndian (i : Instr) : issueCheck (s.withBusEndian e) i = issueCheck s i := by
  cases i <;> rfl

theorem State.issue_withBusEndian (w : Word) : (s.withBusEndian e).issue w = (s.issue w).withBusEndian e := by
  have hb : (s.withBusEndian e).busy = s.busy := rfl
  unfold State.issue
  rw [hb]
  split
  · exact s.raiseError_withBusEndian e _
  · split
    · exact s.raiseError_withBusEndian e _
    · rw [issueCheck_withBusEndian]
      split
      · exact s.raiseError_withBusEndian e _
      · rfl

theorem State.idleWrite_withBusEndian (v : Word) (q : Target) :
    (s.withBusEndian e).idleWrite v q = (s.idleWrite v q).withBusEndian e := by
  cases q with
  | id | ctrl | status | msgLen | msgCap | unmapped | dr _ _ | ir _ => rfl
  | cmd => exact s.issue_withBusEndian e v
  | msgPush8 | msgPush32 => exact s.pushBytes_withBusEndian e _

theorem State.writeTarget_withBusEndian (q : Target) (v : Word) :
    (s.withBusEndian e).writeTarget q v = (s.writeTarget q v).withBusEndian e := by
  have hb : (s.withBusEndian e).busy = s.busy := rfl
  unfold State.writeTarget
  rw [hb]
  split
  · exact s.raiseError_withBusEndian e _
  · split
    · exact s.ctrlAction_withBusEndian e v
    · split
      · exact s.raiseError_withBusEndian e _
      · exact s.idleWrite_withBusEndian e v q

theorem State.readTarget_withBusEndian (q : Target) : (s.withBusEndian e).readTarget q = s.readTarget q := by
  cases q <;> rfl

theorem hostRead_withBusEndian (addr bytes : Nat) :
    hostRead addr bytes (s.withBusEndian e) = mapNext (State.withBusEndian · e) (hostRead addr bytes s) := by
  have ho : busOffset (s.withBusEndian e).params addr bytes = busOffset s.params addr bytes := rfl
  unfold hostRead
  rw [ho]
  split
  · rfl
  · rw [State.readTarget_withBusEndian]
    exact withOperand_mapNext _ _ _ _ fun _ => rfl

theorem hostWrite_withBusEndian (addr bytes : Nat) (v : Word) :
    hostWrite addr bytes v (s.withBusEndian e) = mapNext (State.withBusEndian · e) (hostWrite addr bytes v s) := by
  have ho : busOffset (s.withBusEndian e).params addr bytes = busOffset s.params addr bytes := rfl
  unfold hostWrite
  rw [ho]
  split
  · rfl
  · rw [State.writeTarget_withBusEndian]
    rfl

theorem hostPoll_withBusEndian :
    hostPoll (s.withBusEndian e) = mapNext (State.withBusEndian · e) (hostPoll s) := by
  have hb : (s.withBusEndian e).busy = s.busy := rfl
  unfold hostPoll
  rw [hb]
  split <;> rfl

theorem hostTurn_withBusEndian :
    hostTurn (s.withBusEndian e) = mapNext (State.withBusEndian · e) (hostTurn s) := by
  have hp : (s.withBusEndian e).port = s.port := rfl
  unfold hostTurn
  rw [hp]
  split
  · rfl
  · exact hostRead_withBusEndian s.popPort e _ _
  · exact hostWrite_withBusEndian s.popPort e _ _ _
  · exact hostPoll_withBusEndian s e

theorem engineTurn_withBusEndian :
    engineTurn (s.withBusEndian e) = mapNext (State.withBusEndian · e) (engineTurn s) := by
  have hi : (s.withBusEndian e).inflight = s.inflight := rfl
  unfold engineTurn
  rw [hi]
  split
  · exact (unread_busEndian e).exec _ s
  · rfl

end

/-- Settles O53: R9 and the order of the agents do not name HOST_BUS_ENDIAN, and each agent's turn commutes with
changing it. -/
theorem busEndianHasNoEffect : Obligations.BusEndianHasNoEffect := by
  intro s e
  have hwf : (s.withBusEndian e).params.wf = s.params.wf := rfl
  have hm : (s.withBusEndian e).mover = s.mover := rfl
  show step (s.withBusEndian e) = mapNext (State.withBusEndian · e) (step s)
  unfold step
  rw [hwf, hm]
  split
  · split
    · exact engineTurn_withBusEndian s.popTurn e
    · exact hostTurn_withBusEndian s.popTurn e
  · rfl

end Sys2Proof.Machine
end

section
/-! The encoding (30_encoding.md R100 to R104): a word is its five fields, a command's encoding has the command's
fields, and the legal words are those of the opcode table. -/

namespace Sys2Proof.Machine

/-- A command's fields, the unused ones 0 (30_encoding.md R102, R103). -/
def commandFields : Instr → CommandFields
  | .msgClear => ⟨0x01, 0, 0, 0, 0⟩
  | .msgAppd rs1 => ⟨0x02, 0, .ofFin rs1, 0, 0⟩
  | .dhBytes rd => ⟨0x10, .ofFin rd, 0, 0, 0⟩
  | .dhWords rd => ⟨0x11, .ofFin rd, 0, 0, 0⟩
  | .dhParent rd rs1 rs2 => ⟨0x12, .ofFin rd, .ofFin rs1, .ofFin rs2, 0⟩
  | .cvToint rs1 => ⟨0x20, 0, .ofFin rs1, 0, 0⟩
  | .cvFromint rd => ⟨0x21, .ofFin rd, 0, 0, 0⟩
  | .cvCmpeq rs1 rs2 => ⟨0x22, 0, .ofFin rs1, .ofFin rs2, 0⟩

/-- The fields side by side are the word (30_encoding.md R101): no bit of it is dropped. -/
theorem append_fieldsOf (w : Word) :
    (fieldsOf w).rsv ++ (fieldsOf w).rs2 ++ (fieldsOf w).rs1 ++ (fieldsOf w).rd ++ (fieldsOf w).opc = w := by
  simp only [fieldsOf]
  rw [BitVec.extractLsb'_append_extractLsb'_eq_extractLsb' (start₂ := 14) (start₁ := 12) (len₁ := 2) rfl,
    BitVec.extractLsb'_append_extractLsb'_eq_extractLsb' (start₂ := 12) (start₁ := 10) (len₁ := 2) rfl,
    BitVec.extractLsb'_append_extractLsb'_eq_extractLsb' (start₂ := 10) (start₁ := 8) (len₁ := 2) rfl,
    BitVec.extractLsb'_append_extractLsb'_eq_extractLsb' (start₂ := 8) (start₁ := 0) (len₁ := 8) rfl]
  exact BitVec.extractLsb'_eq_self

theorem fieldsOf_injective : Function.Injective fieldsOf := by
  intro v w h
  rw [← append_fieldsOf v, ← append_fieldsOf w, h]

theorem fieldsOf_or (v w : Word) : fieldsOf (v ||| w) =
    ⟨(fieldsOf v).opc ||| (fieldsOf w).opc, (fieldsOf v).rd ||| (fieldsOf w).rd,
      (fieldsOf v).rs1 ||| (fieldsOf w).rs1, (fieldsOf v).rs2 ||| (fieldsOf w).rs2,
      (fieldsOf v).rsv ||| (fieldsOf w).rsv⟩ := by
  simp only [fieldsOf, BitVec.extractLsb'_or]

theorem fieldsOf_and (v w : Word) : fieldsOf (v &&& w) =
    ⟨(fieldsOf v).opc &&& (fieldsOf w).opc, (fieldsOf v).rd &&& (fieldsOf w).rd,
      (fieldsOf v).rs1 &&& (fieldsOf w).rs1, (fieldsOf v).rs2 &&& (fieldsOf w).rs2,
      (fieldsOf v).rsv &&& (fieldsOf w).rsv⟩ := by
  simp only [fieldsOf, BitVec.extractLsb'_and]

theorem fieldsOf_opc (opc : BitVec 8) : fieldsOf (opc.setWidth 32) = ⟨opc, 0, 0, 0, 0⟩ := by
  revert opc; decide

theorem fieldsOf_rd (r : DReg) : fieldsOf (BitVec.ofNat 32 r.val <<< 8) = ⟨0, .ofFin r, 0, 0, 0⟩ := by
  revert r; decide

theorem fieldsOf_rs1 (r : DReg) : fieldsOf (BitVec.ofNat 32 r.val <<< 10) = ⟨0, 0, .ofFin r, 0, 0⟩ := by
  revert r; decide

theorem fieldsOf_rs2 (r : DReg) : fieldsOf (BitVec.ofNat 32 r.val <<< 12) = ⟨0, 0, 0, .ofFin r, 0⟩ := by
  revert r; decide

/-- Each operand of `enc` reaches its own field and no other. -/
theorem fieldsOf_enc (opc : BitVec 8) (rd rs1 rs2 : DReg) :
    fieldsOf (enc opc rd rs1 rs2) = ⟨opc, .ofFin rd, .ofFin rs1, .ofFin rs2, 0⟩ := by
  simp [enc, fieldsOf_or, fieldsOf_opc, fieldsOf_rd, fieldsOf_rs1, fieldsOf_rs2]

theorem fieldsOf_encode (i : Instr) : fieldsOf (encode i) = commandFields i := by
  cases i <;> exact fieldsOf_enc _ _ _ _

theorem eq_encode_iff {w : Word} {i : Instr} : w = encode i ↔ fieldsOf w = commandFields i := by
  rw [← fieldsOf_encode, fieldsOf_injective.eq_iff]

theorem whenUnusedZero_eq_ok_iff {unused : List (BitVec 2)} {i j : Instr} :
    whenUnusedZero unused i = .ok j ↔ unused.all (· == 0) = true ∧ i = j := by
  unfold whenUnusedZero
  split
  next h => rw [h, Except.ok.injEq, eq_self, true_and]
  next h => simp only [h, reduceCtorEq, false_and]

/-- A register field holds the number of its register. -/
@[simp] theorem ofFin_regOf (x : BitVec 2) : BitVec.ofFin (regOf x) = x := rfl

theorem decodeFields_commandFields (i : Instr) : decodeFields (commandFields i) = .ok i := by
  cases i <;> rfl

/-- The decoder answers a command on that command's fields only. -/
theorem decodeFields_eq_ok_iff {f : CommandFields} {i : Instr} :
    decodeFields f = .ok i ↔ f = commandFields i := by
  refine ⟨fun h => ?_, fun h => h ▸ decodeFields_commandFields i⟩
  obtain ⟨opc, rd, rs1, rs2, rsv⟩ := f
  unfold decodeFields at h
  split_ifs at h
  -- the two rejections answer no command, and DH.PARENT has no unused field
  any_goals cases h
  any_goals obtain ⟨hz, rfl⟩ := whenUnusedZero_eq_ok_iff.1 h
  all_goals simp_all [commandFields]

/-- Settles O1: both sides say that the word's fields are the command's. -/
theorem decodeAndEncodeAgree : Obligations.DecodeAndEncodeAgree := fun _ _ =>
  decodeFields_eq_ok_iff.trans eq_encode_iff.symm

theorem decode_encode (i : Instr) : decode (encode i) = .ok i := (decodeAndEncodeAgree _ _).2 rfl

end Sys2Proof.Machine
end

section
/-! The legal words (30_encoding.md R104): by the three conditions, by the decoder and by the opcode table's rows; and
what writing an illegal word to CMD does. -/

namespace Sys2Proof.Machine

section

variable {f : CommandFields} {w : Word} {row : Word × Word}

theorem unusedZero_iff : f.unusedZero = true ↔ (usesRd.contains f.opc || f.rd == 0) = true ∧
    (usesRs1.contains f.opc || f.rs1 == 0) = true ∧ (usesRs2.contains f.opc || f.rs2 == 0) = true := by
  rw [CommandFields.unusedZero, Bool.and_eq_true, Bool.and_eq_true, and_assoc]

theorem wf_iff : f.wf = true ↔ f.rsv = 0 ∧ f.opc ∈ assignedOpcodes ∧ f.unusedZero = true := by
  rw [CommandFields.wf, CommandFields.reservedZero, CommandFields.opcodeAssigned, Bool.and_eq_true, Bool.and_eq_true,
    and_assoc, beq_iff_eq, List.contains_iff_mem]

theorem wf_eq_false_iff :
    f.wf = false ↔ f.rsv ≠ 0 ∨ f.opc ∉ assignedOpcodes ∨ f.unusedZero = false := by
  rw [← Bool.not_eq_true, wf_iff, not_and_or, not_and_or, Bool.not_eq_true]

/-- The decoder accepts exactly the fields that none of R104's conditions rejects: for each of the eight opcodes, the
fields that its branch asks to be 0 are the unused ones. -/
theorem decode_ok_iff_wf : (∃ i, decode w = .ok i) ↔ (fieldsOf w).wf = true := by
  unfold decode
  generalize fieldsOf w = f
  constructor
  · rintro ⟨i, h⟩
    rw [decodeFields_eq_ok_iff.1 h]
    cases i <;> rfl
  · obtain ⟨opc, rd, rs1, rs2, rsv⟩ := f
    rw [wf_iff]
    rintro ⟨rfl, ho, hz⟩
    simp only at ho
    fin_cases ho
    all_goals simp_all [unusedZero_iff, usesRd, usesRs1, usesRs2, decodeFields, whenUnusedZero]

theorem decode_error_iff : (∃ e, decode w = .error e) ↔
      (fieldsOf w).rsv ≠ 0 ∨ (fieldsOf w).opc ∉ assignedOpcodes ∨ (fieldsOf w).unusedZero = false := by
  rw [← wf_eq_false_iff, Bool.eq_false_iff, ne_eq, ← decode_ok_iff_wf]
  cases decode w <;> simp

/-- The rows are the assigned opcodes, in order. -/
theorem opcodes_of_opcodeTable : (opcodeTable.map fun row => (fieldsOf row.1).opc) = assignedOpcodes := by
  decide

theorem row_eq_of_opc_eq {r1 r2 : Word × Word} (h1 : r1 ∈ opcodeTable) (h2 : r2 ∈ opcodeTable)
    (h : (fieldsOf r1.1).opc = (fieldsOf r2.1).opc) : r1 = r2 :=
  List.inj_on_of_nodup_map (opcodes_of_opcodeTable ▸ (by decide : assignedOpcodes.Nodup)) h1 h2 h

/-- A row of the table, field by field: its match is an assigned opcode alone, and its mask covers the opcode, the
reserved bits and the register fields that the opcode does not use. -/
theorem fieldsOf_row (hr : row ∈ opcodeTable) :
    ∃ opc ∈ assignedOpcodes, fieldsOf row.1 = ⟨opc, 0, 0, 0, 0⟩ ∧
      fieldsOf row.2 = ⟨.allOnes 8, if usesRd.contains opc then 0 else .allOnes 2,
        if usesRs1.contains opc then 0 else .allOnes 2, if usesRs2.contains opc then 0 else .allOnes 2,
        .allOnes 18⟩ := by
  refine ⟨(fieldsOf row.1).opc, ?_⟩
  fin_cases hr <;> decide

theorem and_unusedMask_eq_zero_iff (used : Bool) (x : BitVec 2) :
    x &&& (if used then 0 else .allOnes 2) = 0 ↔ (used || x == 0) = true := by
  cases used
  · simp only [Bool.false_eq_true, if_false, BitVec.and_allOnes, Bool.false_or, beq_iff_eq]
  · simp

/-- A word matches a row when it has the row's opcode and its reserved bits and unused fields are 0. -/
theorem matchesRow_iff (hr : row ∈ opcodeTable) :
    matchesRow w row = true ↔ (fieldsOf w).wf = true ∧ (fieldsOf w).opc = (fieldsOf row.1).opc := by
  obtain ⟨opc, ho, h1, h2⟩ := fieldsOf_row hr
  rw [matchesRow, beq_iff_eq, ← fieldsOf_injective.eq_iff, fieldsOf_and, h1, h2]
  generalize fieldsOf w = f
  simp only [CommandFields.mk.injEq, BitVec.and_allOnes, and_unusedMask_eq_zero_iff, wf_iff, unusedZero_iff]
  constructor
  · rintro ⟨rfl, hd, hs1, hs2, hv⟩
    exact ⟨⟨hv, ho, hd, hs1, hs2⟩, rfl⟩
  · rintro ⟨⟨hv, _, hd, hs1, hs2⟩, rfl⟩
    exact ⟨rfl, hd, hs1, hs2, hv⟩

theorem wf_iff_matchesRow :
    (fieldsOf w).wf = true ↔ ∃ row ∈ opcodeTable, matchesRow w row = true := by
  constructor
  · intro h
    obtain ⟨_, ho, _⟩ := wf_iff.1 h
    rw [← opcodes_of_opcodeTable] at ho
    obtain ⟨row, hr, he⟩ := List.mem_map.1 ho
    exact ⟨row, hr, (matchesRow_iff hr).2 ⟨h, he.symm⟩⟩
  · rintro ⟨row, hr, hm⟩
    exact ((matchesRow_iff hr).1 hm).1

end

/-- Writing an illegal word with BUSY = 0 is Error(ILLEGAL_CMD) and nothing else (30_encoding.md R104). -/
theorem State.writeTarget_cmd_illegal {s : State} {w : Word} {e : DecodeError} (hd : decode w = .error e)
    (hi : s.inflight = none) : s.writeTarget .cmd w = s.raiseError .illegalCmd := by
  rw [State.writeTarget_of_idle w rfl (by simp) hi]
  simp [State.idleWrite, State.issue, s.not_busy_iff.2 hi, hd]

/-- The error fields after an error: the first error's code is kept (60_exceptions.md R252). -/
theorem State.raiseError_keeps_first (s : State) (c : ErrorCode) :
    s.raiseError c = { s with err := true, errcode := if s.err then s.errcode else c.code } := by
  obtain ⟨he, hs⟩ | ⟨he, hs⟩ := s.raiseError_cases c
  · rw [hs, if_pos he, ← he]
  · rw [hs, he, if_neg Bool.false_ne_true]

/-- Settles O2: the legal words are those whose fields are well-formed, by R104's conditions as by the table's rows, and
a row that a word matches has the word's opcode. -/
theorem legalWordsAreTheTableRows : Obligations.LegalWordsAreTheTableRows := by
  intro w
  refine ⟨decode_error_iff, decode_ok_iff_wf.trans wf_iff_matchesRow, fun r1 h1 r2 h2 m1 m2 => ?_,
    fun s e hd hi => ?_⟩
  · exact row_eq_of_opc_eq h1 h2 (((matchesRow_iff h1).1 m1).2.symm.trans ((matchesRow_iff h2).1 m2).2)
  · exact (State.writeTarget_cmd_illegal hd hi).trans (s.raiseError_keeps_first .illegalCmd)

/-- Settles O3: fixed words, evaluated. -/
theorem commandWordsDecode : Obligations.CommandWordsDecode := by
  unfold Obligations.CommandWordsDecode
  decide

end Sys2Proof.Machine
end

section
/-! The assembler text of a command (30_encoding.md R107): where its mnemonic ends, and that its registers read back. -/

namespace Sys2Proof.Machine

@[simp] theorem regOfDigit_digitOf (r : DReg) : regOfDigit (digitOf r) = some r := by
  revert r; decide

theorem digitOf_ne_blank (r : DReg) : digitOf r ≠ ' ' := by
  revert r; decide

theorem printRegs_cons_cons (r q : DReg) (rest : List DReg) :
    printRegs (r :: q :: rest) = ' ' :: 'd' :: digitOf r :: ',' :: printRegs (q :: rest) := rfl

/-- Register names read back, whatever the number of them. -/
theorem parseRegs_printRegs (rs : List DReg) :
    parseRegs ((printRegs rs).filter (· ≠ ' ')) = some rs := by
  induction rs with
  | nil => rfl
  | cons r rest ih =>
    cases rest with
    | nil => simp [printRegs, parseRegs, digitOf_ne_blank]
    | cons q rest =>
      have hf : (printRegs (r :: q :: rest)).filter (· ≠ ' ') =
          'd' :: digitOf r :: ',' :: (printRegs (q :: rest)).filter (· ≠ ' ') := by
        simp [printRegs_cons_cons, digitOf_ne_blank]
      rw [hf]
      generalize (printRegs (q :: rest)).filter (· ≠ ' ') = more at ih ⊢
      cases more with
      | nil => cases ih
      | cons c tail => exact parseRegs.eq_3 _ _ _ _ _ (regOfDigit_digitOf r) ih

theorem instrOf_mnemonic (i : Instr) : instrOf (mnemonic i) (operandList i) = some i := by
  cases i <;> rfl

theorem blank_notMem_mnemonic (i : Instr) : ' ' ∉ mnemonic i := by
  cases i <;> simp [mnemonic]

/-- A spelling that differs in the case of letters has no blank either, as a blank is no letter. -/
theorem blank_notMem_of_capitals {i : Instr} {m : List Char} (h : m.map capital = mnemonic i) : ' ' ∉ m := by
  intro hm
  have hb : capital ' ' ∈ m.map capital := List.mem_map_of_mem hm
  exact blank_notMem_mnemonic i (h ▸ hb)

theorem dropWhile_printRegs (rs : List DReg) : (printRegs rs).dropWhile (· ≠ ' ') = printRegs rs := by
  cases rs with
  | nil => rfl
  | cons r rest => cases rest <;> rfl

theorem takeWhile_printRegs (rs : List DReg) : (printRegs rs).takeWhile (· ≠ ' ') = [] := by
  cases rs with
  | nil => rfl
  | cons r rest => cases rest <;> rfl

/-- Settles O4: the first blank of the text ends the mnemonic, which has none itself, and the registers read back. -/
theorem assemblerTextReadsBack : Obligations.AssemblerTextReadsBack := by
  intro i m hm
  have hb : ∀ c ∈ m, decide (c ≠ ' ') = true := by
    intro c hc
    exact decide_eq_true (fun h => blank_notMem_of_capitals hm (h ▸ hc))
  have hline : (m ++ printRegs (operandList i)).dropWhile (· = ' ') = m ++ printRegs (operandList i) := by
    cases m with
    | nil => cases i <;> cases hm
    | cons c m => exact List.dropWhile_cons_of_neg (by simpa using hb c List.mem_cons_self)
  unfold parseInstr
  simp only [hline, List.dropWhile_append_of_pos hb, List.takeWhile_append_of_pos hb, dropWhile_printRegs,
    takeWhile_printRegs, List.append_nil, parseRegs_printRegs, hm, instrOf_mnemonic]

end Sys2Proof.Machine
end

section
/-! Host programs (30_encoding.md R108): what `wait`, `do` and `ld` do through `step`. -/

namespace Sys2Proof.Machine

section

variable {s s' : State} {rest : List HostOp}

theorem run_succ_of_step {k : Nat} (h : step s = .next s') : run (k + 1) s = run k s' := by
  simp only [run, h]

/-- With no turn prescribed and nothing in flight the host moves. -/
theorem State.mover_of_idle (hi : s.inflight = none) (ht : s.turns = []) : s.mover = .host := by
  simp [State.mover, ht, s.not_busy_iff.2 hi]

/-- With no turn prescribed a command in flight completes first (log 6). -/
theorem State.completes_of_inflight {i : Instr} (hi : s.inflight = some i) (ht : s.turns = []) : s.completes i :=
  ⟨by simp [State.mover, ht, State.busy, hi], hi⟩

/-- A turn of the polling loop: only the port's side of the host changes. -/
theorem step_of_wait (hwf : s.params.wf = true) (hm : s.mover = .host) (hp : s.port = .wait :: rest) :
    step s = .next { s with
      port := if s.inflight = none then rest else .wait :: rest
      turns := s.turns.tail
      returned := s.statusWord :: s.returned } := by
  have hw : s.popTurn.statusWord = s.statusWord := rfl
  have hb : s.popTurn.busy = s.busy := rfl
  rw [step_of_host hwf hm]
  simp only [hostTurn, State.popTurn_port, hp, hostPoll, hw, hb]
  cases hi : s.inflight with
  | none => simp [s.not_busy_iff.2 hi, State.deliver, State.popTurn, State.popPort, hp, hi]
  | some i => simp [State.busy, hi, State.deliver, State.popTurn, hp]

end

/-- Settles O10: it is what one turn of the polling loop does. -/
theorem waitIsLeftExactlyWhenNotBusy : Obligations.WaitIsLeftExactlyWhenNotBusy :=
  fun _ _ => step_of_wait

section

variable {s : State} {rest : List HostOp}

/-- A write by a register's name reaches that register. -/
theorem State.hostWrites_of_hWr {t : Target} {v : Word} (hm : s.mover = .host) (hu : t ≠ .unmapped)
    (hp : s.port = hWr s.params t v ++ rest) : s.hostWrites t v := by
  obtain ⟨off, ho⟩ : ∃ off, offsetOf t = some off := by
    cases t <;> simp_all [offsetOf]
  obtain ⟨hlt, hal, ht⟩ := targetOf_of_offsetOf ho
  have hoff : offsetOr t = off := by simp [offsetOr, ho]
  rw [hWr, hoff] at hp
  exact ⟨hm, _, _, _, off, hp, busOffset_eq_some.2 ⟨rfl, hlt, hal, rfl⟩, ht⟩

theorem step_of_hWr {t : Target} {v : Word} (hwf : s.params.wf = true) (hi : s.inflight = none) (ht : s.turns = [])
    (hu : t ≠ .unmapped) (hp : s.port = hWr s.params t v ++ rest) :
    step s = .next (State.writeTarget { s with port := rest } t v) := by
  have htail : s.turns.tail = s.turns := by rw [ht]; rfl
  rw [step_of_hostWrites hwf (State.hostWrites_of_hWr (State.mover_of_idle hi ht) hu hp),
    State.popTurn_popPort_of_port hp, htail]
  rfl

/-- With BUSY = 0 the only error that a CMD write of a command's encoding raises is its issue check's. -/
theorem writeError_cmd_encode (i : Instr) (hi : s.inflight = none) :
    writeError s .cmd (encode i) = issueCheck s i := by
  simp only [writeError, Target.rejectsWrite, hi, decode_encode]
  cases i <;> simp [issueCheck, issueCheckMsgAppd, issueCheckDhWords, State.wouldOverflow_iff]

/-- A CMD write that raises no error latches its command (60_exceptions.md R254). -/
theorem State.writeTarget_cmd_of_no_error {i : Instr} (hi : s.inflight = none)
    (he : writeError s .cmd (encode i) = none) : s.writeTarget .cmd (encode i) = s.latch i := by
  rw [writeError_cmd_encode i hi] at he
  rw [State.writeTarget_of_idle _ rfl (by simp) hi]
  simp [State.idleWrite, State.issue, s.not_busy_iff.2 hi, decode_encode, he]

/-- A completion leaves the parameters and the host's side as they are. -/
theorem State.completed_host (s : State) (i : Instr) : (s.completed i).params = s.params ∧
    (s.completed i).port = s.port ∧ (s.completed i).turns = s.turns := by
  cases i <;> simp [State.completed]

/-- The issuing write of `do`: the command is in flight and the polling loop is next. -/
theorem step_of_hDo {i : Instr} (hwf : s.params.wf = true) (hi : s.inflight = none) (ht : s.turns = [])
    (hp : s.port = hDo s.params i ++ rest) (he : writeError s .cmd (encode i) = none) :
    step s = .next { s with port := .wait :: rest, inflight := some i } := by
  have hp' : s.port = hWr s.params .cmd (encode i) ++ .wait :: rest := hp
  rw [step_of_hWr hwf hi ht (by simp) hp']
  exact congrArg _ (State.writeTarget_cmd_of_no_error hi he)

/-- With no turn prescribed the engine completes the command in flight, whatever the host's accesses. -/
theorem step_of_inflight {i : Instr} {t : State} (p : List HostOp) (hwf : s.params.wf = true) (ht : s.turns = [])
    (hi : s.inflight = some i) (he : exec i s = .next t) : step { s with port := p } = .next { t with port := p } := by
  have hpop : State.popTurn { s with port := p } = { s with port := p } := by
    simp only [State.popTurn, ht, List.tail_nil]
  have hstep := step_of_completes (s := { s with port := p }) hwf (State.completes_of_inflight hi ht)
  rw [hstep, hpop]
  exact ((unread_port p).exec i s).trans (by rw [he]; rfl)

/-- With no turn prescribed and nothing in flight one poll ends the loop. -/
theorem step_of_idle_wait (hwf : s.params.wf = true) (hi : s.inflight = none) (ht : s.turns = []) :
    step { s with port := .wait :: s.port } = .next { s with returned := s.statusWord :: s.returned } := by
  have hm : State.mover { s with port := .wait :: s.port } = .host := State.mover_of_idle hi ht
  have hw : State.statusWord { s with port := .wait :: s.port } = s.statusWord := rfl
  rw [step_of_wait (s := { s with port := .wait :: s.port }) hwf hm rfl, hw]
  simp [hi, ht]

end

/-- Settles O11: the CMD write latches the command, which completes before the host moves again and does not read the
port; it leaves nothing in flight, so one poll ends the loop. -/
theorem doRunsTheCommand : Obligations.DoRunsTheCommand := by
  intro s t i rest hwf hi ht hp he hx
  obtain ⟨hparams, rfl, hturns⟩ : t.params = s.params ∧ t.port = rest ∧ t.turns = s.turns :=
    (exec_next_iff.1 hx).2 ▸ State.completed_host _ i
  have hissue := step_of_hDo hwf hi ht hp he
  have hcomplete := step_of_inflight (s := { s with port := t.port, inflight := some i }) (.wait :: t.port) hwf ht
    rfl hx
  have hpoll := step_of_idle_wait (hparams ▸ hwf) (exec_retires hx) (hturns.trans ht)
  rw [run_succ_of_step hissue, run_succ_of_step hcomplete, run_succ_of_step hpoll]
  rfl

section

variable {α : Type}

theorem Four.set_get_same (v : Four α) (i : DReg) : v.set i (v.get i) = v := by
  fin_cases i <;> rfl

theorem Four.set_set_same (v : Four α) (i : DReg) (x y : α) : (v.set i x).set i y = v.set i y := by
  fin_cases i <;> rfl

/-- `v` with the lanes `js` replaced, in that order, by the values that `f` gives. -/
def Eight.setLanes (v : Eight α) (f : Fin 8 → α) (js : List (Fin 8)) : Eight α :=
  js.foldl (fun w j => w.set j (f j)) v

theorem Eight.setLanes_cons (v : Eight α) (f : Fin 8 → α) (j : Fin 8) (js : List (Fin 8)) :
    v.setLanes f (j :: js) = (v.set j (f j)).setLanes f js := rfl

theorem Eight.setLanes_laneNumbers (v : Eight α) (f : Fin 8 → α) : v.setLanes f laneNumbers = .ofFn f := rfl

end

section

variable {n : DReg} {d : Digest} {rest : List HostOp}

/-- Writes of the words `js` of one digest register, an access each, from an idle block. -/
theorem run_digestWordWrites (js : List (Fin 8)) (s : State) (hwf : s.params.wf = true) (hi : s.inflight = none)
    (ht : s.turns = []) (hp : s.port = (js.flatMap fun j => hWr s.params (.dr n j) (d.get j)) ++ rest) :
    run js.length s = .next { s with
      dr := s.dr.set n ((s.dr.get n).setLanes d.get js)
      drWritten := s.drWritten.set n ((s.drWritten.get n).setLanes (fun _ => true) js)
      port := rest } := by
  induction js generalizing s with
  | nil =>
    have hport : s.port = rest := hp
    simp [run, Eight.setLanes, Four.set_get_same, ← hport]
  | cons j js ih =>
    rw [List.flatMap_cons, List.append_assoc] at hp
    have hstep := step_of_hWr hwf hi ht (by simp) hp
    rw [State.writeTarget_dr n j _ (by exact hi)] at hstep
    rw [List.length_cons, run_succ_of_step hstep]
    refine (ih _ ?_ ?_ ?_ ?_).trans ?_
    · exact hwf
    · exact hi
    · exact ht
    · rfl
    · simp [State.writeDigestWord, Four.set_set_same, Eight.setLanes_cons]

end

/-- Settles O12: the eight lanes written one by one are the whole register. -/
theorem loadWritesTheDigest : Obligations.LoadWritesTheDigest := by
  intro s n d rest hwf hi ht hp
  have hd : Eight.ofFn d.get = d := Eight.ext_get (Eight.get_ofFn d.get)
  have hrun := run_digestWordWrites laneNumbers s hwf hi ht hp
  rw [Eight.setLanes_laneNumbers, Eight.setLanes_laneNumbers, hd] at hrun
  exact hrun

end Sys2Proof.Machine
end

section
/-! The converter's wiring and the numbers it stands for (40_converter.md R130 to R136; 10_state.md R32). -/

namespace Sys2Proof.Machine

/-- The number that a word sequence stands for, the least significant word first (10_state.md R32). -/
def wordsNat (ws : List Word) : Nat := Nat.ofDigits (2 ^ 32) (ws.map BitVec.toNat)

theorem wordsNat_cons (w : Word) (ws : List Word) : wordsNat (w :: ws) = w.toNat + 2 ^ 32 * wordsNat ws :=
  Nat.ofDigits_cons ..

theorem wordsNat_append (us ws : List Word) :
    wordsNat (us ++ ws) = wordsNat us + 2 ^ (32 * us.length) * wordsNat ws := by
  rw [wordsNat, List.map_append, Nat.ofDigits_append, List.length_map, ← pow_mul]
  rfl

theorem wordsNat_lt (ws : List Word) : wordsNat ws < 2 ^ (32 * ws.length) := by
  have hlt : wordsNat ws < (2 ^ 32) ^ (ws.map BitVec.toNat).length :=
    Nat.ofDigits_lt_base_pow_length (by norm_num) (List.forall_mem_map.2 fun w _ => w.isLt)
  rwa [List.length_map, ← pow_mul] at hlt

/-- Bits `32k` to `32k + 31` of the number are word `k`. -/
theorem wordsNat_div_mod (ws : List Word) (k : Nat) (hk : k < ws.length) :
    wordsNat ws / 2 ^ (32 * k) % 2 ^ 32 = ws[k].toNat := by
  have hdrop : wordsNat ws / 2 ^ (32 * k) = wordsNat (ws.drop k) := by
    rw [wordsNat, pow_mul, Nat.ofDigits_div_pow_eq_ofDigits_drop k (by norm_num) _
      (List.forall_mem_map.2 fun w _ => w.isLt), ← List.map_drop, ← wordsNat]
  rw [hdrop, List.drop_eq_getElem_cons hk, wordsNat_cons, Nat.add_mul_mod_self_left, Nat.mod_eq_of_lt ws[k].isLt]

/-- A number below a power of two and one shifted past it share no bit: their OR is their sum. -/
theorem or_shiftLeft_of_lt {a i : Nat} (b : Nat) (h : a < 2 ^ i) : a ||| b <<< i = a + b <<< i := by
  rw [Nat.or_comm, ← Nat.shiftLeft_add_eq_or_of_lt h, Nat.add_comm]

/-- Four words, the least significant first, added at their places (10_state.md R32). -/
theorem wordsNat_four (a b c d : Word) :
    wordsNat [a, b, c, d] = a.toNat + b.toNat <<< 32 + c.toNat <<< 64 + d.toNat <<< 96 := by
  simp only [wordsNat, List.map, Nat.ofDigits_cons, Nat.ofDigits_nil, Nat.shiftLeft_eq]
  omega

/-- The source's OR of four words at their places is the number they stand for (40_converter.md R130). -/
theorem or_four_words (a b c d : Word) :
    a.toNat ||| b.toNat <<< 32 ||| c.toNat <<< 64 ||| d.toNat <<< 96 = wordsNat [a, b, c, d] := by
  have hab : a.toNat + b.toNat <<< 32 < 2 ^ 64 := by
    rw [Nat.shiftLeft_eq]; omega
  have habc : a.toNat + b.toNat <<< 32 + c.toNat <<< 64 < 2 ^ 96 := by
    rw [Nat.shiftLeft_eq] at hab ⊢; rw [Nat.shiftLeft_eq]; omega
  rw [wordsNat_four, or_shiftLeft_of_lt _ a.isLt, or_shiftLeft_of_lt _ hab, or_shiftLeft_of_lt _ habc]

theorem val_seven_sub (k : Fin 8) : (7 - k).val = 7 - k.val := by
  revert k; decide

section

variable (d : Digest) (l : Limbs)

@[simp] theorem get_transpose (k : Fin 8) : (transpose d).get k = d.get (7 - k) := Eight.get_ofFn ..

/-- The transpose is its own inverse (40_converter.md R136). -/
@[simp] theorem transpose_transpose : transpose (transpose d) = d :=
  Eight.ext_get fun k => by rw [get_transpose, get_transpose, sub_sub_cancel]

theorem limbsLow_eq : limbsLow l = wordsNat [l.get 0, l.get 1, l.get 2, l.get 3] := (wordsNat_four ..).symm

theorem limbsHigh_eq : limbsHigh l = wordsNat [l.get 4, l.get 5, l.get 6, l.get 7] := (wordsNat_four ..).symm

/-- The number in IR is its high half above its low half (10_state.md R32). -/
theorem limbsNat_eq_halves : limbsNat l = limbsLow l + limbsHigh l <<< 128 := by
  rw [limbsLow_eq, limbsHigh_eq, wordsNat_four, wordsNat_four, limbsNat, sum_finRange_eight]
  simp only [Nat.shiftLeft_eq, Fin.coe_ofNat_eq_mod]
  ring

theorem limbsNat_eq : limbsNat l = wordsNat l.toList := by
  rw [limbsNat_eq_halves, limbsLow_eq, limbsHigh_eq, Nat.shiftLeft_eq, Nat.mul_comm]
  exact (wordsNat_append [l.e0, l.e1, l.e2, l.e3] [l.e4, l.e5, l.e6, l.e7]).symm

theorem limbsLow_transpose : limbsLow (transpose d) = digestLow d :=
  (limbsLow_eq _).trans (or_four_words ..).symm

theorem limbsHigh_transpose : limbsHigh (transpose d) = digestHigh d :=
  (limbsHigh_eq _).trans (or_four_words ..).symm

theorem limbsLow_lt : limbsLow l < 2 ^ 128 := limbsLow_eq l ▸ wordsNat_lt _

theorem limbsNat_transpose : limbsNat (transpose d) = digestNat d := by
  rw [limbsNat_eq_halves, digestNat, ← limbsHigh_transpose, ← limbsLow_transpose, Nat.or_comm,
    or_shiftLeft_of_lt _ (limbsLow_lt _)]

/-- The limbs of IR are the 32-bit digits of its number. -/
theorem limbsNat_div_mod (k : Fin 8) : limbsNat l / 2 ^ (32 * k.val) % 2 ^ 32 = (l.get k).toNat := by
  rw [limbsNat_eq, wordsNat_div_mod _ _ k.isLt]
  fin_cases k <;> rfl

end

/-- Settles O33: the ORs of the source are sums, because the words' places are disjoint, and the words are the 32-bit
digits of the number. -/
theorem converterMapsWordZeroToTheTop : Obligations.ConverterMapsWordZeroToTheTop := by
  intro d
  refine ⟨limbsLow_transpose d, limbsHigh_transpose d, limbsNat_transpose d, ?_, fun i => ?_, get_transpose d⟩
  · have hsum : ∑ k : Fin 8, ((transpose d).get k).toNat <<< (32 * k.val) =
        ∑ i : Fin 8, (d.get i).toNat <<< (32 * (7 - i.val)) :=
      Fintype.sum_equiv (Equiv.subLeft 7) _ _ fun k => by
        simp [← val_seven_sub]
    rwa [Fin.sum_univ_def, Fin.sum_univ_def, ← limbsNat, limbsNat_transpose] at hsum
  · have hplace : 224 - 32 * i.val = 32 * (7 - i).val := by
      rw [val_seven_sub]; omega
    rw [hplace, ← limbsNat_transpose, limbsNat_div_mod, get_transpose, sub_sub_cancel]

end Sys2Proof.Machine
end

section
/-! The converter's commands (40_converter.md R131 to R135): their completions, their round trips and their frame. -/

namespace Sys2Proof.Machine

/-- A completion whose operands have been written answers its effect. -/
theorem exec_of_written {i : Instr} {s : State} (h : s.operandsWritten i = true) : exec i s = .next (s.completed i) :=
  exec_next_iff.2 ⟨h, rfl⟩

/-- Settles O34: the effect writes the transpose of the register to IR, and leaves T as it is (log 4). -/
theorem cvTointWritesTheTranspose : Obligations.CvTointWritesTheTranspose :=
  fun s _ h => ⟨s.t, exec_of_written h⟩

/-- Settles O35: the effect writes the transpose of IR to the register, and leaves T as it is (log 4). -/
theorem cvFromintWritesTheTranspose : Obligations.CvFromintWritesTheTranspose :=
  fun s _ h => ⟨s.t, exec_of_written h⟩

/-- The comparison is the decision of pairwise equality (40_converter.md R134). -/
theorem digestEq_eq_decide (a b : Digest) : digestEq a b = decide (∀ j, a.get j = b.get j) :=
  Bool.eq_iff_iff.2 ((digestEq_iff a b).trans decide_eq_true_iff.symm)

/-- Settles O36: the effect writes the comparison to EQ, which decides pairwise equality, and leaves T as it is
(log 4). -/
theorem cvCmpeqComparesWordByWord : Obligations.CvCmpeqComparesWordByWord := by
  intro s a b ha hb
  have hw : s.operandsWritten (.cvCmpeq a b) = true := by simp [State.operandsWritten, ha, hb]
  rw [← digestEq_eq_decide]
  exact ⟨s.t, exec_of_written hw⟩

/-- Settles O37: the first command marks its whole destination written, so the second completes, and the transpose
is its own inverse. -/
theorem converterRoundTrips : Obligations.ConverterRoundTrips := by
  constructor
  · intro s a b h
    refine ⟨_, _, exec_of_written h, exec_of_written rfl, ?_⟩
    simp [State.completed]
  · intro s b h
    have hw : (s.completed (.cvFromint b)).operandsWritten (.cvToint b) = true := by
      simp [State.completed, State.operandsWritten, State.digestWritten]
    have hir : ((s.completed (.cvFromint b)).completed (.cvToint b)).ir = s.ir := by
      simp [State.completed]
    exact ⟨_, _, exec_of_written h, exec_of_written hw, congrArg limbsNat hir, hir⟩

/-- A completion changes what its destination and STATUS read as, and no other register's read
(70_reset_and_hazards.md R289). -/
theorem State.completed_readTarget (s : State) (i : Instr) {q : Target} (h : writesTarget i q = false) :
    (s.completed i).readTarget q = s.readTarget q := by
  cases q with
  | id | ctrl | cmd | msgPush8 | msgPush32 | unmapped => rfl
  | status => cases i <;> cases h
  | msgCap => rw [State.readTarget, (s.completed_host i).1, State.readTarget]
  | msgLen =>
    rcases s.completed_msg i with hm | ⟨rfl, _⟩ | ⟨_, rfl, _⟩
    · rw [State.readTarget, State.msgLen, hm, State.readTarget]
    · cases h
    · cases h
  | dr k j =>
    rcases s.completed_digests i with ⟨hd, hw⟩ | ⟨r, hr, hd, hw⟩
    · rw [State.readTarget, hd, hw, State.readTarget]
    · have hk : k ≠ r := by
        rcases hr with rfl | rfl | ⟨_, _, rfl⟩ | rfl <;> exact of_decide_eq_false h
      rw [State.readTarget, hd k hk, hw, Four.get_set_other _ _ hk, State.readTarget]
  | ir k =>
    rcases s.completed_limbs i with ⟨hl, hw⟩ | ⟨_, rfl, _⟩
    · rw [State.readTarget, hl, hw, State.readTarget]
    · cases h

/-- Settles O39: the reads by the frame of every completion, the fields by the effect of each converter command. -/
theorem converterCommandsFrame : Obligations.ConverterCommandsFrame := by
  intro i s t hi he
  obtain ⟨_, rfl⟩ := exec_next_iff.1 he
  have hq : ∀ q, writesTarget i q = false → (s.completed i).readTarget q = s.readTarget q :=
    fun q => s.completed_readTarget i
  rcases hi with ⟨r, rfl⟩ | ⟨rd, rfl⟩ | ⟨a, b, rfl⟩
  · simpa [State.completed] using hq
  · simpa +contextual [State.completed, Four.get_set_other] using hq
  · simpa [State.completed] using hq

end Sys2Proof.Machine
end

section
/-! The reference functions (40_converter.md R140 to R145). -/

namespace Sys2Proof.Machine

section

variable {W a b : Nat}

theorem refMul_of_lt (h : a * b < 2 ^ W) : refMul W a b = .ok (a * b) := if_pos h

theorem refMul_of_le (h : 2 ^ W ≤ a * b) : refMul W a b = .error .refOverflow := if_neg (Nat.not_lt.2 h)

/-- What follows a multiplication sees its product only. -/
theorem refMul_bind_congr {β : Type} {f g : Nat → Except Fault β} (h : f (a * b) = g (a * b)) :
    refMul W a b >>= f = refMul W a b >>= g := by
  unfold refMul
  split
  · exact h
  · rfl

/-- Two multiplications, one after the other, overflow exactly when the whole product does, unless a last factor of 0
hides an overflow of the first. -/
theorem refMul_bind_refMul {c : Nat} (hc : c = 0 → b = 0) :
    (refMul W a b >>= fun x => refMul W x c) = refMul W a (b * c) := by
  rcases Nat.lt_or_ge (a * b) (2 ^ W) with hlt | hge
  · rw [refMul_of_lt hlt]
    simp only [refMul, bind, Except.bind, Nat.mul_assoc]
  · have hb : b ≠ 0 := right_ne_zero_of_mul (Nat.lt_of_lt_of_le (Nat.two_pow_pos W) hge).ne'
    have hc' : 0 < c := Nat.pos_of_ne_zero (mt hc hb)
    have hprod : a * b ≤ a * (b * c) := Nat.mul_le_mul_left a (Nat.le_mul_of_pos_right b hc')
    rw [refMul_of_le hge, refMul_of_le (hge.trans hprod)]
    rfl

/-- Squaring the base first overflows only if the power by a nonzero exponent does. -/
theorem refMul_self_bind {k : Nat} (hk : k ≠ 0) (ha : a = 0 → b = 0) :
    (refMul W b b >>= fun x => refMul W a (x ^ k)) = refMul W a (b ^ (2 * k)) := by
  rw [Nat.pow_mul, Nat.pow_two]
  rcases Nat.lt_or_ge (b * b) (2 ^ W) with hlt | hge
  · rw [refMul_of_lt hlt]
    rfl
  · have hb : b ≠ 0 := right_ne_zero_of_mul (Nat.lt_of_lt_of_le (Nat.two_pow_pos W) hge).ne'
    have ha' : 0 < a := Nat.pos_of_ne_zero (mt ha hb)
    have hprod : b * b ≤ a * (b * b) ^ k := (Nat.le_self_pow hk _).trans (Nat.le_mul_of_pos_left _ ha')
    rw [refMul_of_le hge, refMul_of_le (hge.trans hprod)]
    rfl

end

/-- The loop of `fast_pow` multiplies the accumulator by the power that is left (40_converter.md R140). An accumulator
of 0 comes with a base of 0, so that no product on the way overflows unless the last one does. -/
theorem fastPowLoop_eq (W : Nat) {fuel b e acc : Nat} (he : e ≠ 0) (hf : e ≤ fuel) (hacc : acc = 0 → b = 0) :
    fastPowLoop W fuel b e acc = refMul W acc (b ^ e) := by
  induction fuel generalizing b e acc with
  | zero => omega
  | succ fuel ih =>
    by_cases hlast : e / 2 = 0
    · obtain rfl : e = 1 := by omega
      rw [Nat.pow_one]
      exact bind_pure _
    · have hsquare {acc : Nat} (hacc : acc = 0 → b = 0) :
          (refMul W b b >>= fun b' => fastPowLoop W fuel b' (e / 2) acc) = refMul W acc (b ^ (2 * (e / 2))) :=
        (refMul_bind_congr (ih hlast (by omega) (by simpa using hacc))).trans (refMul_self_bind hlast hacc)
      simp only [fastPowLoop, hlast, if_false]
      split
      · next hodd =>
        have hpow : b * b ^ (2 * (e / 2)) = b ^ e := by
          rw [← Nat.pow_succ']
          congr 1
          omega
        rw [← hpow, ← refMul_bind_refMul fun h => (Nat.pow_eq_zero.1 h).1]
        exact refMul_bind_congr (hsquare fun h => (Nat.mul_eq_zero.1 h).elim hacc id)
      · next heven =>
        have heven' : 2 * (e / 2) = e := by omega
        rw [heven'] at hsquare
        exact hsquare hacc

theorem refMul_one_left (W n : Nat) : refMul W 1 n = if n < 2 ^ W then .ok n else .error .refOverflow := by
  simp only [refMul, Nat.one_mul]

/-- `fast_pow` is the power, or overflow (40_converter.md R140, R143). -/
theorem fastPow_eq {W : Nat} (hW : 0 < W) (a n : Nat) :
    fastPow W a n = if a ^ n < 2 ^ W then .ok (a ^ n) else .error .refOverflow := by
  rw [← refMul_one_left]
  unfold fastPow
  split
  · next hn => rw [hn, Nat.pow_zero, refMul_of_lt (by simpa using hW.ne')]
  · next hn => exact fastPowLoop_eq W hn le_rfl (by simp)

/-- The power of two that the shifts take always fits (40_converter.md R141, R142). -/
theorem fastPow_two {W n : Nat} (h : n < W) : fastPow W 2 n = .ok (2 ^ n) := by
  rw [fastPow_eq (Nat.zero_lt_of_lt h), if_pos (Nat.pow_lt_pow_right (by norm_num) h)]

theorem refShl_of_lt {W n : Nat} (a : Nat) (h : n < W) : refShl W a n = refMul W a (2 ^ n) := by
  rw [refShl, if_neg (by omega), fastPow_two h]
  rfl

theorem refShr_of_lt {W n : Nat} (a : Nat) (h : n < W) : refShr W a n = .ok (a / 2 ^ n) := by
  rw [refShr, if_neg (by omega), fastPow_two h]
  rfl

/-- Settles O58: the shifts take a power of two that fits whenever they do not answer 0. -/
theorem referenceFunctionsAreTheirArithmetic : Obligations.ReferenceFunctionsAreTheirArithmetic := by
  intro W a n hW
  refine ⟨fastPow_eq hW a n, ?_⟩
  by_cases hn : W - 1 < n
  · simp [refShl, refShr, hn]
  · have hlt : n < W := by omega
    rw [if_neg hn, if_neg hn]
    exact ⟨refShl_of_lt a hlt, refShr_of_lt a hlt⟩

/-- Settles O59: the arithmetic of O58 at the width and at 0, and the power as a repeated product. -/
theorem referenceBoundaryLaws : Obligations.ReferenceBoundaryLaws := by
  constructor
  · intro v hv
    refine ⟨rfl, rfl, ?_, ?_⟩
    · rw [refShr_of_lt v (by norm_num), Nat.pow_zero, Nat.div_one]
    · rw [refShl_of_lt v (by norm_num), Nat.pow_zero, refMul_of_lt (by rwa [Nat.mul_one]), Nat.mul_one]
  · intro b e _ hfit
    rw [List.prod_replicate, fastPow_eq (by norm_num), if_pos hfit]

/-- A word shifted to its place in a half. -/
theorem refShl_word (w : Word) {n : Nat} (hn : n ≤ 96) : refShl 128 w.toNat n = .ok (w.toNat <<< n) := by
  have hlt : w.toNat * 2 ^ n < 2 ^ 32 * 2 ^ 96 :=
    Nat.mul_lt_mul_of_lt_of_le w.isLt (Nat.pow_le_pow_right (by norm_num) hn) (by positivity)
  rw [refShl_of_lt _ (by omega), refMul_of_lt (by simpa [← Nat.pow_add] using hlt), Nat.shiftLeft_eq]

theorem refHalf_eq (a b c d : Word) :
    refHalf a b c d = .ok (a.toNat ||| b.toNat <<< 32 ||| c.toNat <<< 64 ||| d.toNat <<< 96) := by
  simp only [refHalf, refShl_word, Nat.reduceLeDiff, Nat.shiftLeft_zero]
  rfl

theorem refLimb_eq (h : Nat) {j : Nat} (hj : j < 4) : refLimb h j = .ok (BitVec.ofNat 32 (h / 2 ^ (32 * j))) := by
  have hmask (x : Nat) : BitVec.ofNat 32 (x &&& 0xffffffff) = BitVec.ofNat 32 x :=
    (BitVec.ofNat_and ..).trans BitVec.and_allOnes
  rw [refLimb, refShr_of_lt h (by omega), ← hmask]
  rfl

theorem refShrTimes_eq (h j : Nat) : refShrTimes j h = .ok (h / 2 ^ (32 * j)) := by
  induction j generalizing h with
  | zero => simp [refShrTimes]
  | succ j ih =>
    rw [refShrTimes, refShr_of_lt h (by norm_num)]
    refine (ih _).trans ?_
    rw [Nat.div_div_eq_div_mul, ← Nat.pow_add, Nat.mul_succ, Nat.add_comm]

/-- The source's limb of a half is its word (40_converter.md R145). -/
theorem refLimb_wordsNat {ws : List Word} {j : Nat} (hj : j < 4) (hl : j < ws.length) :
    refLimb (wordsNat ws) j = .ok ws[j] := by
  rw [refLimb_eq _ hj]
  refine congrArg _ (BitVec.eq_of_toNat_eq ?_)
  rw [BitVec.toNat_ofNat, wordsNat_div_mod ws j hl]

theorem refToInteger_eq (d : Digest) : refToInteger d = .ok (digestHigh d, digestLow d) := by
  rw [refToInteger, refHalf_eq, refHalf_eq]
  rfl

theorem refFromInteger_eq (l : Limbs) : refFromInteger (limbsHigh l) (limbsLow l) = .ok (transpose l) := by
  rw [limbsHigh_eq, limbsLow_eq]
  simp only [refFromInteger, refLimb_wordsNat, List.length_cons, List.length_nil, List.getElem_cons_succ,
    List.getElem_cons_zero, Nat.reduceAdd, Nat.reduceLT, Nat.zero_add]
  rfl

/-- Settles O60: no word leaves its half when it is shifted to its place, and each limb of a half is its word; dividing
by 2^32 `j` times is dividing by 2^(32j). -/
theorem referenceConstructionIsTheWiring : Obligations.ReferenceConstructionIsTheWiring := by
  refine ⟨fun d => ?_, refFromInteger_eq, fun h j _ hj => ?_⟩
  · rw [refToInteger_eq, limbsHigh_transpose, limbsLow_transpose]
  · rw [refLimb, refShr_of_lt h (by omega), refShrTimes_eq]
    rfl

end Sys2Proof.Machine
end

section
/-! The byte view BE (41_message_input.md R164) and the word view WORDS (42_double_hash.md R192): the place of each
byte and of each word, and that the two views are inverse to each other. -/

namespace Sys2Proof.Machine

/-- A word is its four bytes side by side, the most significant first. -/
theorem wordOfBytes_extractLsb' (w : Word) :
    wordOfBytes (w.extractLsb' 24 8) (w.extractLsb' 16 8) (w.extractLsb' 8 8) (w.extractLsb' 0 8) = w := by
  unfold wordOfBytes
  rw [BitVec.extractLsb'_append_extractLsb'_eq_extractLsb' (start₂ := 24) (start₁ := 16) (len₁ := 8) rfl,
    BitVec.extractLsb'_append_extractLsb'_eq_extractLsb' (start₂ := 16) (start₁ := 8) (len₁ := 8) rfl,
    BitVec.extractLsb'_append_extractLsb'_eq_extractLsb' (start₂ := 8) (start₁ := 0) (len₁ := 8) rfl]
  exact BitVec.extractLsb'_eq_self

theorem wordBytes_wordOfBytes (b0 b1 b2 b3 : Byte) : wordBytes (wordOfBytes b0 b1 b2 b3) = [b0, b1, b2, b3] := by
  have drop {n k : Nat} (x : BitVec n) (b : Byte) : (x ++ b).extractLsb' (8 + k) 8 = x.extractLsb' k 8 := by
    rw [BitVec.extractLsb'_append_eq_of_le (Nat.le_add_right 8 k), Nat.add_sub_cancel_left]
  have h0 : (wordOfBytes b0 b1 b2 b3).extractLsb' 24 8 = b0 :=
    (drop _ b3).trans ((drop _ b2).trans BitVec.extractLsb'_append_eq_left)
  have h1 : (wordOfBytes b0 b1 b2 b3).extractLsb' 16 8 = b1 :=
    (drop _ b3).trans ((drop _ b2).trans BitVec.extractLsb'_append_eq_right)
  have h2 : (wordOfBytes b0 b1 b2 b3).extractLsb' 8 8 = b2 :=
    (drop _ b3).trans BitVec.extractLsb'_append_eq_right
  have h3 : (wordOfBytes b0 b1 b2 b3).extractLsb' 0 8 = b3 := BitVec.extractLsb'_append_eq_right
  rw [wordBytes, h0, h1, h2, h3]

theorem wordBytes_getElem? (w : Word) {b : Nat} (hb : b < 4) :
    (wordBytes w)[b]? = some (w.extractLsb' (24 - 8 * b) 8) := by
  match b with
  | 0 | 1 | 2 | 3 => rfl

@[simp] theorem beBytes_cons (w : Word) (ws : List Word) : beBytes (w :: ws) = wordBytes w ++ beBytes ws := rfl

@[simp] theorem beWords_wordBytes_append (w : Word) (bs : List Byte) :
    beWords (wordBytes w ++ bs) = w :: beWords bs :=
  congrArg (· :: beWords bs) (wordOfBytes_extractLsb' w)

theorem beWords_beBytes (ws : List Word) : beWords (beBytes ws) = ws := by
  induction ws with
  | nil => rfl
  | cons w ws ih => rw [beBytes_cons, beWords_wordBytes_append, ih]

/-- No byte is lost in the word view when the length is a multiple of 4. -/
theorem beBytes_beWords {bs : List Byte} (h : bs.length % 4 = 0) : beBytes (beWords bs) = bs := by
  induction bs using beWords.induct with
  | case1 b0 b1 b2 b3 rest ih =>
    have hrest : rest.length % 4 = 0 := by simp only [List.length_cons] at h; omega
    rw [beWords, beBytes_cons, wordBytes_wordOfBytes, ih hrest]
    rfl
  | case2 bs hshort =>
    match bs with
    | [] => rfl
    | [_] | [_, _] | [_, _, _] => simp at h
    | b0 :: b1 :: b2 :: b3 :: rest => exact (hshort b0 b1 b2 b3 rest rfl).elim

section

variable {ws : List Word} {bs : List Byte} {i : Nat}

/-- Byte `b` of word `i` stands at `4i + b` of the byte view (41_message_input.md R164). -/
theorem beBytes_getElem? {w : Word} {b : Nat} (hw : ws[i]? = some w) (hb : b < 4) :
    (beBytes ws)[4 * i + b]? = some (w.extractLsb' (24 - 8 * b) 8) := by
  induction ws generalizing i with
  | nil => simp at hw
  | cons x xs ih =>
    cases i with
    | zero =>
      obtain rfl : x = w := by simpa using hw
      rw [beBytes_cons, Nat.mul_zero, Nat.zero_add, List.getElem?_append_left hb, wordBytes_getElem? x hb]
    | succ i =>
      rw [beBytes_cons, show 4 * (i + 1) + b = (wordBytes x).length + (4 * i + b) by simp; omega,
        List.getElem?_append_right (Nat.le_add_right ..), Nat.add_sub_cancel_left]
      exact ih (by simpa using hw)

/-- Word `i` of the word view is read off the bytes, because the bytes are the byte view of the word view. -/
theorem beWords_getElem? {n : Nat} (hn : bs.length = 4 * n) (hi : i < n) :
    (beWords bs)[i]? = some (wordOfBytes (bs.getD (4 * i) 0) (bs.getD (4 * i + 1) 0) (bs.getD (4 * i + 2) 0)
      (bs.getD (4 * i + 3) 0)) := by
  have hbs : beBytes (beWords bs) = bs := beBytes_beWords (by omega)
  have hlt : i < (beWords bs).length := by
    have hlen := length_beBytes (beWords bs)
    rw [hbs] at hlen
    omega
  obtain ⟨w, hw⟩ : ∃ w, (beWords bs)[i]? = some w := ⟨_, List.getElem?_eq_getElem hlt⟩
  have hbyte (b : Nat) (hb : b < 4) : bs.getD (4 * i + b) 0 = w.extractLsb' (24 - 8 * b) 8 := by
    have h := beBytes_getElem? hw hb
    rw [hbs] at h
    rw [List.getD_eq_getElem?_getD, h, Option.getD_some]
  have h0 : bs.getD (4 * i) 0 = w.extractLsb' 24 8 := hbyte 0 (by decide)
  rw [hw, h0, hbyte 1 (by decide), hbyte 2 (by decide), hbyte 3 (by decide)]
  exact congrArg some (wordOfBytes_extractLsb' w).symm

end

/-- Settles O27: the place of each byte by induction on the words, the inverses by induction on either sequence, and
the place of each word from the two. -/
theorem bytesAndWordsAreBigEndian : Obligations.BytesAndWordsAreBigEndian :=
  ⟨fun _ _ _ _ => beBytes_getElem?, fun d => ⟨rfl, length_byteView d⟩, fun _ _ _ => beWords_getElem?,
    fun ws => ⟨length_beBytes ws, beWords_beBytes ws⟩, fun _ => beBytes_beWords⟩

end Sys2Proof.Machine
end

section
/-! The push ports and the message commands (41_message_input.md R160 to R165): their checks, their completions and
their frame. -/

namespace Sys2Proof.Machine

section

variable {s : State}

theorem State.pushBytes_of_fits {bytes : List Byte} (h : s.msg.length + bytes.length ≤ s.params.msgCap) :
    s.pushBytes bytes = s.appendMsg bytes := by
  rcases s.pushBytes_cases bytes with ⟨_, e⟩ | ⟨ho, _⟩
  · exact e
  · exact absurd h (Nat.not_le.2 ho)

theorem State.pushBytes_of_overflow {bytes : List Byte} (h : s.params.msgCap < s.msg.length + bytes.length) :
    s.pushBytes bytes = s.raiseError .msgOverflow := by
  rcases s.pushBytes_cases bytes with ⟨hf, _⟩ | ⟨_, e⟩
  · exact absurd h (Nat.not_lt.2 hf)
  · exact e

theorem issueCheck_msgAppd_of_overflow (r : DReg) (h : s.params.msgCap < s.msg.length + 32) :
    issueCheck s (.msgAppd r) = some .msgOverflow :=
  if_pos ((s.wouldOverflow_iff 32).2 h)

/-- A CMD write whose command fails its issue check raises the check's error (60_exceptions.md R254). -/
theorem State.writeTarget_cmd_of_check {i : Instr} {c : ErrorCode} (hi : s.inflight = none)
    (hc : issueCheck s i = some c) : s.writeTarget .cmd (encode i) = s.raiseError c := by
  rw [State.writeTarget_of_idle _ rfl (by simp) hi]
  simp [State.idleWrite, State.issue, s.not_busy_iff.2 hi, decode_encode, hc]

end

/-- Settles O24: with BUSY = 0 a push write is `pushBytes` of its bytes, and a CMD write of MSG.APPD goes by its issue
check; both compare the new length with the capacity. -/
theorem appendsAreAllOrNothing : Obligations.AppendsAreAllOrNothing := by
  intro s v hi
  have h8 : s.writeTarget .msgPush8 v = s.pushBytes [v.extractLsb' 0 8] :=
    State.writeTarget_of_idle v rfl (by simp) hi
  have h32 : s.writeTarget .msgPush32 v = s.pushBytes (wordBytes v) :=
    State.writeTarget_of_idle v rfl (by simp) hi
  rw [h8, h32]
  refine ⟨fun ho => State.pushBytes_of_overflow ho, fun hf => State.pushBytes_of_fits hf,
    fun ho => State.pushBytes_of_overflow ho, fun hf => State.pushBytes_of_fits hf, fun r ho => ?_, fun r hf => ?_⟩
  · exact State.writeTarget_cmd_of_check hi (issueCheck_msgAppd_of_overflow r ho)
  · have hc : issueCheck s (.msgAppd r) = none := (issueCheck_msgAppd_none s r).2 hf
    exact State.writeTarget_cmd_of_no_error hi ((writeError_cmd_encode _ hi).trans hc)

/-- Settles O25: MSG.CLEAR reads no operand, and its effect leaves T as it is (log 4). -/
theorem msgClearEmptiesTheBuffer : Obligations.MsgClearEmptiesTheBuffer :=
  fun s => ⟨s.t, exec_of_written rfl⟩

/-- Settles O26: the effect appends the byte view of the register, and leaves T as it is (log 4). -/
theorem msgAppdAppendsTheByteView : Obligations.MsgAppdAppendsTheByteView :=
  fun s _ h => ⟨s.t, exec_of_written h⟩

/-- As the host sees it, a message command writes MSG_LEN and STATUS only (70_reset_and_hazards.md R289). -/
theorem writesTarget_of_message {i : Instr} {q : Target} (hi : i = .msgClear ∨ ∃ r, i = .msgAppd r)
    (hl : q ≠ .msgLen) (hs : q ≠ .status) : writesTarget i q = false := by
  cases q with
  | msgLen => exact absurd rfl hl
  | status => exact absurd rfl hs
  | _ => rcases hi with rfl | ⟨r, rfl⟩ <;> rfl

/-- Settles O40: the reads by the frame of every completion, the fields by the effect of each message command. -/
theorem messageCommandsFrame : Obligations.MessageCommandsFrame := by
  intro i s t hi he
  obtain ⟨_, rfl⟩ := exec_next_iff.1 he
  have hq : ∀ q : Target, q ≠ .msgLen → q ≠ .status → (s.completed i).readTarget q = s.readTarget q :=
    fun q hl hs => s.completed_readTarget i (writesTarget_of_message hi hl hs)
  rcases hi with rfl | ⟨r, rfl⟩
  · simpa [State.completed] using hq
  · simpa +contextual [State.completed, List.getElem?_append_left] using hq

end Sys2Proof.Machine
end

section
/-! The double-hash family (42_double_hash.md R190 to R198): the completions of the three hash commands, the laws that
relate them, the inputs of a completion, and the hash commands' frame. -/

namespace Sys2Proof.Machine

section

variable (s : State) (H : Primitive) (rd : DReg)

/-- The commit of a hash command as one update of the state. -/
theorem State.commitHash_eq_update (x : Digest) :
    s.commitHash H rd x = { s with
      t := x
      dr := s.dr.set rd (hashWords H x.toList)
      drWritten := s.drWritten.set rd (Eight.const true)
      inflight := none } := rfl

/-- The first pass of DH.WORDS takes the bytes of the whole words of MSG. -/
theorem hashWords_messageWords : hashWords H s.messageWords = H (s.msg.take (4 * (s.msg.length / 4))) := by
  have hlen : (s.msg.take (4 * (s.msg.length / 4))).length % 4 = 0 := by
    rw [List.length_take, Nat.min_eq_left (by omega), Nat.mul_mod_right]
  exact congrArg H (beBytes_beWords hlen)

end

/-- Settles O28: DH.BYTES reads no operand, and its effect is the commit of the first pass over MSG. -/
theorem dhBytesHashesTheMessageTwice : Obligations.DhBytesHashesTheMessageTwice := fun s rd =>
  ⟨_, (exec_of_written (i := .dhBytes rd) rfl).trans (congrArg _ (s.commitHash_eq_update _ rd _))⟩

/-- Settles O29: DH.WORDS reads no operand, and the bytes of its word view are those of the message's whole words. -/
theorem dhWordsHashesTheWholeWordsTwice : Obligations.DhWordsHashesTheWholeWordsTwice := by
  intro s rd
  rw [← hashWords_messageWords s sha256]
  exact ⟨_, (exec_of_written (i := .dhWords rd) rfl).trans (congrArg _ (s.commitHash_eq_update _ rd _))⟩

/-- Settles O30: the effect takes both operands from the old DR. -/
theorem dhParentHashesBothDigestsTwice : Obligations.DhParentHashesBothDigestsTwice := by
  intro s rd a b ha hb
  have hw : s.operandsWritten (.dhParent rd a b) = true := by simp [State.operandsWritten, ha, hb]
  exact ⟨_, (exec_of_written hw).trans (congrArg _ (s.commitHash_eq_update _ rd _))⟩

section

variable {s : State}

theorem beBytes_append (us ws : List Word) : beBytes (us ++ ws) = beBytes us ++ beBytes ws := List.flatMap_append

/-- Without trailing bytes the word view of the message loses nothing, so DH.WORDS is DH.BYTES (42_double_hash.md
R196). -/
theorem State.hashMessageWords_of_aligned (H : Primitive) (rd : DReg) (h : s.msg.length % 4 = 0) :
    s.hashMessageWords H rd = s.hashMessageBytes H rd := by
  have hlen : 4 * (s.msg.length / 4) = s.msg.length := by omega
  rw [State.hashMessageWords, hashWords_messageWords, hlen, List.take_length, State.hashMessageBytes]

theorem State.hashParent_of_written (H : Primitive) (rd : DReg) {a b : DReg} (ha : s.digestWritten a = true)
    (hb : s.digestWritten b = true) :
    s.hashParent H rd a b =
      .next (s.commitHash H rd (hashWords H ((s.dr.get a).toList ++ (s.dr.get b).toList))) := by
  rw [State.hashParent, State.digestOperand_of_written ha, State.digestOperand_of_written hb]
  rfl

/-- Pushing words that fit appends their byte view (41_message_input.md R161). -/
theorem State.foldl_push32 (vs : List Word) (h : s.msg.length + 4 * vs.length ≤ s.params.msgCap) :
    vs.foldl State.push32 s = s.appendMsg (beBytes vs) := by
  induction vs generalizing s with
  | nil => simp [State.appendMsg, beBytes]
  | cons v vs ih =>
    rw [List.length_cons] at h
    have hv : s.push32 v = s.appendMsg (wordBytes v) :=
      State.pushBytes_of_fits (by rw [length_wordBytes]; omega)
    have hvs : (s.msg ++ wordBytes v).length + 4 * vs.length ≤ s.params.msgCap := by
      rw [List.length_append, length_wordBytes]
      omega
    rw [List.foldl_cons, hv, ih (s := s.appendMsg (wordBytes v)) hvs, beBytes_cons]
    simp [State.appendMsg]

end

/-- Settles O31: the entry points share the commit, so each law compares the bytes of two first passes. -/
theorem hashEntryPointsAgree : Obligations.HashEntryPointsAgree := by
  refine ⟨fun H s rd h => ?_, fun H s rd a b ha hb => ?_, fun H s rd vs hm hcap => ?_, fun s rd => ?_⟩
  · rw [State.hashMessageWords_of_aligned H rd h]
  · refine ⟨_, _, _, _, State.hashParent_of_written H rd ha hb, exec_of_written rfl, exec_of_written ?_,
      exec_of_written ?_, ?_⟩
    · exact ha
    · exact hb
    · simp [State.hashMessageBytes, State.completed, hashWords, beBytes_append, byteView]
  · have hpush : vs.foldl State.push32 s = s.appendMsg (beBytes vs) :=
      State.foldl_push32 vs (by simpa [hm] using hcap)
    have hlen : (s.appendMsg (beBytes vs)).msg.length % 4 = 0 := by simp [hm, length_beBytes]
    rw [hpush, State.hashMessageWords_of_aligned H rd hlen]
    simp [State.hashMessageBytes, hm, doubleHashWords, hashWords]
  · simp [State.hashMessageBytes, byteView, sha256Bytes, hashWords]

section

variable {s u : State}

theorem State.operandsWritten_congr (hdw : s.drWritten = u.drWritten) (hiw : s.irWritten = u.irWritten) (i : Instr) :
    s.operandsWritten i = u.operandsWritten i := by
  cases i <;> simp [State.operandsWritten, State.digestWritten, State.limbsWritten, hdw, hiw]

/-- What a completion leaves in MSG, DR and IR, and the EQ that CV.CMPEQ writes, come from MSG, DR and IR
(42_double_hash.md R198). -/
theorem State.completed_congr (hm : s.msg = u.msg) (hd : s.dr = u.dr) (hdw : s.drWritten = u.drWritten)
    (hi : s.ir = u.ir) (hiw : s.irWritten = u.irWritten) (i : Instr) :
    (s.completed i).msg = (u.completed i).msg ∧ (s.completed i).dr = (u.completed i).dr ∧
      (s.completed i).drWritten = (u.completed i).drWritten ∧ (s.completed i).ir = (u.completed i).ir ∧
      (s.completed i).irWritten = (u.completed i).irWritten ∧
      ((∃ a b, i = .cvCmpeq a b) → (s.completed i).eq = (u.completed i).eq) := by
  have hw : s.messageWords = u.messageWords := by simp [State.messageWords, State.msgLen, hm]
  cases i <;> simp [State.completed, hm, hd, hdw, hi, hiw, hw]

end

/-- Settles O32: the test of the operands reads the written bits only, and the effect MSG, DR and IR only. -/
theorem resultIsAFunctionOfTheInputs : Obligations.ResultIsAFunctionOfTheInputs := by
  intro i s u hm hd hdw hi hiw
  refine ⟨fun f h => ?_, fun t h => ?_⟩
  · rw [exec_eq, State.operandsWritten_congr hdw hiw] at h
    rw [exec_eq]
    split at h
    · cases h
    · next hw => rw [if_neg hw, h]
  · obtain ⟨hw, rfl⟩ := exec_next_iff.1 h
    rw [State.operandsWritten_congr hdw hiw] at hw
    exact ⟨_, exec_of_written hw, State.completed_congr hm.symm hd.symm hdw.symm hi.symm hiw.symm i⟩

section

variable {s t : State} {i : Instr} {rd : DReg}

/-- Clearing BUSY clears bit 0 of STATUS (10_state.md R37). -/
theorem State.statusWord_of_retired (he : t.eq = s.eq) (hr : t.err = s.err) (hc : t.errcode = s.errcode)
    (hi : t.inflight = none) : t.statusWord = s.statusWord &&& 0xFFFFFFFE := by
  have hmask : (0xFFFFFFFE : Word) = BitVec.allOnes 31 ++ 0#1 := by decide
  rw [hmask, State.statusWord, State.statusWord, BitVec.and_append,
    BitVec.and_allOnes, BitVec.and_zero, he, hr, hc, t.not_busy_iff.2 hi]
  rfl

theorem State.completed_of_hash (hi : i = .dhBytes rd ∨ i = .dhWords rd ∨ ∃ a b, i = .dhParent rd a b) :
    ∃ x, s.completed i = s.commitHash sha256 rd x := by
  obtain rfl | rfl | ⟨a, b, rfl⟩ := hi <;> exact ⟨_, rfl⟩

/-- As the host sees it, a hash command writes its destination's words and STATUS only (70_reset_and_hazards.md
R289). -/
theorem writesTarget_of_hash {q : Target} (hi : i = .dhBytes rd ∨ i = .dhWords rd ∨ ∃ a b, i = .dhParent rd a b)
    (hs : q ≠ .status) (hd : ∀ j, q ≠ .dr rd j) : writesTarget i q = false := by
  cases q with
  | status => exact absurd rfl hs
  | dr r j =>
    have hr : r ≠ rd := fun h => hd j (h ▸ rfl)
    obtain rfl | rfl | ⟨a, b, rfl⟩ := hi <;> exact decide_eq_false hr
  | _ => obtain rfl | rfl | ⟨a, b, rfl⟩ := hi <;> rfl

end

/-- Settles O38: the reads by the frame of every completion, the fields by the commit that the three commands share. -/
theorem hashCommandsFrame : Obligations.HashCommandsFrame := by
  intro i rd s t hi h
  obtain ⟨_, rfl⟩ := exec_next_iff.1 h
  have hreads (q : Target) (hs : q ≠ .status) (hd : ∀ j, q ≠ .dr rd j) :
      (s.completed i).readTarget q = s.readTarget q :=
    s.completed_readTarget i (writesTarget_of_hash hi hs hd)
  obtain ⟨x, hx⟩ := s.completed_of_hash hi
  rw [hx] at hreads ⊢
  have hstatus : (s.commitHash sha256 rd x).statusWord = s.statusWord &&& 0xFFFFFFFE :=
    State.statusWord_of_retired (State.commitHash_eq ..) (State.commitHash_err ..) (State.commitHash_errcode ..)
      (State.commitHash_inflight ..)
  refine ⟨fun r hr => by simp [Four.get_set_other _ _ hr], ?_⟩
  simpa using ⟨hstatus, hreads⟩

end Sys2Proof.Machine
end

section
/-! The host's steps while a command is in flight (70_reset_and_hazards.md R283, R285): without a soft reset they reach
none of the command's inputs. -/

namespace Sys2Proof.Machine

/-- `t` is `s` but for the error fields and the host's side of the port. -/
def DiffersInErrorsAndPort (s t : State) : Prop :=
  ∃ e c p q r, t = { s with err := e, errcode := c, port := p, turns := q, returned := r }

section

variable {s t u : State} {i : Instr}

theorem DiffersInErrorsAndPort.refl (s : State) : DiffersInErrorsAndPort s s := ⟨_, _, _, _, _, rfl⟩

theorem DiffersInErrorsAndPort.trans (h : DiffersInErrorsAndPort s t) (h' : DiffersInErrorsAndPort t u) :
    DiffersInErrorsAndPort s u := by
  obtain ⟨_, _, _, _, _, rfl⟩ := h
  obtain ⟨e, c, p, q, r, rfl⟩ := h'
  exact ⟨e, c, p, q, r, rfl⟩

theorem State.raiseError_differs (s : State) (c : ErrorCode) : DiffersInErrorsAndPort s (s.raiseError c) := by
  obtain ⟨_, e⟩ | ⟨_, e⟩ := s.raiseError_cases c <;> rw [e] <;> exact ⟨_, _, _, _, _, rfl⟩

/-- With a command in flight a write that is not a soft reset can change the error fields only. -/
theorem State.writeTarget_differs (hi : s.inflight = some i) {q : Target} {v : Word}
    (hn : ¬ (q = .ctrl ∧ v.getLsbD 0 = true)) : DiffersInErrorsAndPort s (s.writeTarget q v) := by
  obtain e | e | ⟨c, e⟩ := State.writeTarget_busy hi q v hn <;> rw [e]
  · exact ⟨_, _, _, _, _, rfl⟩
  · exact .refl s
  · exact s.raiseError_differs c

theorem step_of_host_differs (hi : s.inflight = some i) (hm : s.mover = .host) (hn : ¬ s.softResets)
    (h : step s = .next t) : DiffersInErrorsAndPort s t := by
  obtain ⟨_, ⟨he, _⟩, _⟩ | ⟨q, v, hw, rfl⟩ | ⟨p, q, r, rfl⟩ := step_block_cases h
  · rw [hm] at he; cases he
  · have hpop : DiffersInErrorsAndPort s s.popTurn.popPort := ⟨_, _, _, _, _, rfl⟩
    have hwrite : ¬ (q = .ctrl ∧ v.getLsbD 0 = true) := by
      rintro ⟨rfl, h0⟩
      exact hn ⟨v, hw, h0⟩
    exact hpop.trans (State.writeTarget_differs (s := s.popTurn.popPort) hi hwrite)
  · exact ⟨_, _, p, q, r, rfl⟩

theorem run_succ_next {k : Nat} (h : run (k + 1) s = .next u) : ∃ t, step s = .next t ∧ run k t = .next u := by
  rw [run] at h
  split at h
  · next t ht => exact ⟨t, ht, h⟩
  · cases h
  · cases h

/-- The step lemma along a run: the command in flight stays, so each step meets its hypothesis. -/
theorem run_of_host_differs {k : Nat} (hi : s.inflight = some i) (h : run k s = .next u)
    (hhost : ∀ j v, j < k → run j s = .next v → v.mover = .host ∧ ¬ v.softResets) :
    DiffersInErrorsAndPort s u := by
  induction k generalizing s with
  | zero =>
    cases h
    exact .refl _
  | succ k ih =>
    obtain ⟨t, ht, hu⟩ := run_succ_next h
    obtain ⟨hm, hn⟩ := hhost 0 s (Nat.succ_pos k) rfl
    have hst := step_of_host_differs hi hm hn ht
    have hit : t.inflight = some i := by
      obtain ⟨_, _, _, _, _, rfl⟩ := hst
      exact hi
    exact hst.trans (ih hit hu fun j v hj hv => hhost (j + 1) v (Nat.succ_lt_succ hj) ((run_succ_of_step ht).trans hv))

end

/-- Settles O49: the error fields and the host's side of the port are not inputs of the command in flight. -/
theorem inFlightCommandKeepsItsInputs : Obligations.InFlightCommandKeepsItsInputs := by
  intro k s u i hi h hhost
  obtain ⟨_, _, _, _, _, rfl⟩ := run_of_host_differs hi h hhost
  exact ⟨hi, rfl, rfl, rfl, rfl, rfl, rfl, rfl⟩

end Sys2Proof.Machine
end

section
/-! The padding, the message schedule and the constants of the primitive H (45_sha256.md R221, R224 to R226). -/

namespace Sys2Proof.Machine

theorem length_be64 (l : Nat) : (be64 l).length = 8 := rfl

theorem be64_value (l : Nat) : (be64 l).foldl (fun a b => 256 * a + b.toNat) 0 = l % 2 ^ 64 := by
  simp only [be64, List.foldl_cons, List.foldl_nil, BitVec.extractLsb'_toNat, BitVec.toNat_ofNat,
    Nat.shiftRight_eq_div_pow]
  omega

theorem padZeros_fills (n : Nat) : (n + 1 + padZeros n) % 64 = 56 := by
  unfold padZeros
  omega

theorem padZeros_le {n z : Nat} (h : (n + 1 + z) % 64 = 56) : padZeros n ≤ z := by
  unfold padZeros
  omega

theorem length_shaPad (m : List Byte) : (shaPad m).length = m.length + 1 + padZeros m.length + 8 := by
  simp only [shaPad, List.length_append, List.length_singleton, List.length_replicate, length_be64]

/-- The padded message is whole blocks (45_sha256.md R221). -/
theorem length_shaPad_mod (m : List Byte) : (shaPad m).length % 64 = 0 := by
  have hfill := padZeros_fills m.length
  rw [length_shaPad]
  omega

/-- Settles O54: the bit length is the value of the length field's 64 bits, and the zero bytes are counted modulo 64. -/
theorem paddingFillsWholeBlocks : Obligations.PaddingFillsWholeBlocks := fun m =>
  ⟨rfl, padZeros_fills _, fun _ hz h => Nat.not_le.2 hz (padZeros_le h), length_shaPad_mod m, length_be64 _,
    fun h => (be64_value _).trans (Nat.mod_eq_of_lt h)⟩

/-- The schedule's words are added one at a time, each at the front of those before it. -/
theorem extendSchedule_succ (n : Nat) (ws : List Word) :
    extendSchedule (n + 1) ws = nextScheduleWord (extendSchedule n ws) :: extendSchedule n ws := by
  induction n generalizing ws with
  | zero => rfl
  | succ n ih => exact ih (nextScheduleWord ws :: ws)

theorem length_extendSchedule (n : Nat) (ws : List Word) : (extendSchedule n ws).length = ws.length + n := by
  induction n with
  | zero => rfl
  | succ n ih => rw [extendSchedule_succ, List.length_cons, ih, Nat.add_assoc]

/-- Adding words leaves those before them in place. -/
theorem extendSchedule_suffix (ws : List Word) {n k : Nat} (h : n ≤ k) :
    extendSchedule n ws <:+ extendSchedule k ws := by
  induction k, h using Nat.le_induction with
  | base => exact List.suffix_rfl
  | succ k _ ih => exact ih.trans (extendSchedule_succ k ws ▸ List.suffix_cons ..)

section

variable {b : List Word} (hb : b.length = 16)
include hb

theorem length_messageSchedule : (messageSchedule b).length = 64 := by
  rw [messageSchedule, List.length_reverse, length_extendSchedule, List.length_reverse, hb]

/-- Word `j` of the schedule is already among its first `16 + n` words, when `j` is below that. -/
theorem messageSchedule_getD {n j : Nat} (hn : n ≤ 48) (hj : j < 16 + n) :
    (messageSchedule b).getD j 0 = (extendSchedule n b.reverse).getD (15 + n - j) 0 := by
  have hlen : (extendSchedule n b.reverse).length = 16 + n := by
    rw [length_extendSchedule, List.length_reverse, hb]
  obtain ⟨newer, h⟩ := extendSchedule_suffix b.reverse hn
  rw [messageSchedule, ← h, List.reverse_append, List.getD_append _ _ _ _ (by rwa [List.length_reverse, hlen]),
    List.getD_reverse _ (by rwa [hlen]), hlen]
  congr 1
  omega

theorem messageSchedule_getD_of_lt {j : Nat} (hj : j < 16) : (messageSchedule b).getD j 0 = b.getD j 0 := by
  rw [messageSchedule_getD hb (Nat.zero_le 48) hj, extendSchedule, List.getD_reverse _ (by omega), hb]
  congr 1
  omega

theorem messageSchedule_getD_add {n : Nat} (hn : n < 48) :
    (messageSchedule b).getD (16 + n) 0 = nextScheduleWord (extendSchedule n b.reverse) := by
  rw [messageSchedule_getD hb (n := n + 1) hn (Nat.lt_succ_self (16 + n)), extendSchedule_succ,
    show 15 + (n + 1) - (16 + n) = 0 by omega, List.getD_cons_zero]

end

/-- Settles O55: the words that `nextScheduleWord` takes, counted from the newest, are the schedule's own. -/
theorem scheduleFollowsItsRecurrence : Obligations.ScheduleFollowsItsRecurrence := by
  refine fun b hb => ⟨length_messageSchedule hb, fun j => messageSchedule_getD_of_lt hb, fun j hle hlt => ?_⟩
  obtain ⟨n, rfl⟩ := Nat.exists_eq_add_of_le hle
  have earlier {d : Nat} (h1 : 1 ≤ d) (h16 : d ≤ 16) :
      (messageSchedule b).getD (16 + n - d) 0 = (extendSchedule n b.reverse).getD (d - 1) 0 := by
    rw [messageSchedule_getD hb (n := n) (by omega) (by omega)]
    congr 1
    omega
  rw [messageSchedule_getD_add hb (by omega), earlier (d := 2) (by decide) (by decide),
    earlier (d := 7) (by decide) (by decide), earlier (d := 15) (by decide) (by decide),
    earlier (d := 16) (by decide) (by decide), nextScheduleWord]

/-- Settles O57: each constant by its integer part, found among the numbers below 20. -/
theorem hashConstantsAreRootFractions : Obligations.HashConstantsAreRootFractions := by
  unfold Obligations.HashConstantsAreRootFractions isRootFraction
  decide +kernel

end Sys2Proof.Machine
end

section
/-! The functions on words, the rounds and the blocks of the primitive H (45_sha256.md R222, R223, R227, R228). -/

namespace Sys2Proof.Machine

theorem rotr_eq_rotateRight (x : Word) {n : Nat} (hn : n < 32) : rotr x n = x.rotateRight n :=
  (BitVec.rotateRight_eq_rotateRightAux_of_lt hn).symm

theorem getLsbD_rotr (x : Word) {n k : Nat} (hn : n < 32) (hk : k < 32) :
    (rotr x n).getLsbD k = x.getLsbD ((k + n) % 32) := by
  rw [rotr_eq_rotateRight x hn, BitVec.getLsbD_rotateRight, Nat.mod_eq_of_lt hn]
  by_cases h : k < 32 - n
  · rw [Nat.mod_eq_of_lt (by omega), Nat.add_comm k]
    simp [h]
  · rw [show (k + n) % 32 = k - (32 - n) by omega]
    simp [h, hk]

@[simp] theorem get_addLanes (s t : Digest) (i : Fin 8) : (addLanes s t).get i = s.get i + t.get i := by
  fin_cases i <;> rfl

/-- The rounds over two lists of one length, counted by the round's number (45_sha256.md R227). -/
theorem shaRounds_eq_foldl {ks ws : List Word} (v : Digest) (h : ks.length = ws.length) :
    shaRounds ks ws v =
      (List.range ks.length).foldl (fun v j => shaRound v (ks.getD j 0) (ws.getD j 0)) v := by
  induction ks generalizing ws v with
  | nil => rfl
  | cons k ks ih =>
    cases ws with
    | nil => cases h
    | cons w ws =>
      rw [shaRounds, ih _ (Nat.succ.inj h), List.length_cons, List.range_succ_eq_map, List.foldl_cons, List.foldl_map]
      rfl

/-- The blocks of a word list, counted by the block's number (45_sha256.md R222, R228). -/
theorem shaBlocks_eq_foldl (n : Nat) (ws : List Word) (s : Digest) :
    shaBlocks n ws s = (List.range n).foldl (fun s t => shaCompress s ((ws.drop (16 * t)).take 16)) s := by
  induction n generalizing ws s with
  | zero => rfl
  | succ n ih =>
    rw [shaBlocks, ih, List.range_succ_eq_map, List.foldl_cons, List.foldl_map]
    simp only [List.drop_drop, Nat.mul_succ, Nat.add_comm 16, Nat.mul_zero, List.drop_zero]

/-- Block `t` of whole blocks is 16 words, each of 4 bytes with the most significant first (45_sha256.md R222). -/
theorem beWords_block {bs : List Byte} {n t : Nat} (hn : bs.length = 64 * n) (ht : t < n) :
    ((beWords bs).drop (16 * t)).take 16 = (List.range 16).map fun i =>
      wordOfBytes (bs.getD (64 * t + 4 * i) 0) (bs.getD (64 * t + 4 * i + 1) 0) (bs.getD (64 * t + 4 * i + 2) 0)
        (bs.getD (64 * t + 4 * i + 3) 0) := by
  refine List.ext_getElem? fun i => ?_
  by_cases hi : i < 16
  · rw [List.getElem?_take_of_lt hi, List.getElem?_drop, beWords_getElem? (n := 16 * n) (by omega) (by omega),
      Nat.mul_add, ← Nat.mul_assoc, List.getElem?_map, List.getElem?_range hi]
    rfl
  · rw [List.getElem?_eq_none (by rw [List.length_take]; omega),
      List.getElem?_eq_none (by rw [List.length_map, List.length_range]; omega)]

theorem length_roundConstants : roundConstants.length = 64 := rfl

theorem get_shaCompress (s : Digest) {block : List Word} (i : Fin 8) (hb : block.length = 16) :
    (shaCompress s block).get i = s.get i + ((List.range 64).foldl (fun v j =>
      shaRound v (roundConstants.getD j 0) ((messageSchedule block).getD j 0)) s).get i := by
  have hlen : roundConstants.length = (messageSchedule block).length :=
    length_roundConstants.trans (length_messageSchedule hb).symm
  rw [shaCompress, get_addLanes, shaRounds_eq_foldl s hlen, length_roundConstants]

theorem sha256_eq_foldl (m : List Byte) :
    sha256 m = (List.range ((shaPad m).length / 64)).foldl (fun s t =>
      shaCompress s ((List.range 16).map fun i =>
        wordOfBytes ((shaPad m).getD (64 * t + 4 * i) 0) ((shaPad m).getD (64 * t + 4 * i + 1) 0)
          ((shaPad m).getD (64 * t + 4 * i + 2) 0) ((shaPad m).getD (64 * t + 4 * i + 3) 0))) initialHash := by
  have hlen : (shaPad m).length = 64 * ((shaPad m).length / 64) :=
    (Nat.mul_div_cancel' (Nat.dvd_of_mod_eq_zero (length_shaPad_mod m))).symm
  rw [sha256, shaBlocks_eq_foldl]
  refine List.foldl_ext _ _ _ fun s t ht => ?_
  rw [beWords_block hlen (List.mem_range.1 ht)]

/-- Settles O56: a rotation by its bits, the rounds and the blocks by induction on the lists they go through. -/
theorem hashFoldsOverTheBlocks : Obligations.HashFoldsOverTheBlocks :=
  ⟨fun x _ _ _ hn hk => ⟨rfl, getLsbD_rotr x hn hk⟩, fun _ _ _ => ⟨rfl, rfl, rfl, rfl, rfl, rfl⟩,
    fun _ _ _ _ _ _ _ _ _ _ => rfl, fun s _ i hb => get_shaCompress s i hb, sha256_eq_foldl⟩

end Sys2Proof.Machine
end

section
/-! The errors (60_exceptions.md): what an error-free write does to each register, that a write does exactly that or
raises the error its checks find (R253 to R255), and that nothing reads the error fields (R256). -/

namespace Sys2Proof.Machine

section

variable {s : State} {w : Word}

theorem State.issue_of_busy (w : Word) (hi : s.inflight ≠ none) : s.issue w = s.raiseError .busy :=
  if_pos (s.busy_iff.2 hi)

theorem State.issue_of_illegal {e : DecodeError} (hi : s.inflight = none) (hd : decode w = .error e) :
    s.issue w = s.raiseError .illegalCmd := by
  simp [State.issue, s.not_busy_iff.2 hi, hd]

/-- A legal word with BUSY = 0 goes by its command's issue check alone (60_exceptions.md R254, steps 4 and 5). -/
theorem State.issue_of_legal {i : Instr} (hi : s.inflight = none) (hd : decode w = .ok i) :
    s.issue w = (issueCheck s i).elim (s.latch i) s.raiseError := by
  cases hc : issueCheck s i <;> simp [State.issue, s.not_busy_iff.2 hi, hd, hc]

theorem issueCheck_dhWords_of_misaligned (r : DReg) (hm : s.msg.length % 4 ≠ 0)
    (hp : s.params.wordsPolicy = .fault) : issueCheck s (.dhWords r) = some .msgMisaligned :=
  if_pos ⟨hm, hp⟩

/-- Only DH.WORDS and MSG.APPD have an issue check, so the two conditions of 60_exceptions.md R254 decide it. -/
theorem issueCheck_eq_none {i : Instr}
    (hw : ∀ r, i = .dhWords r → s.msg.length % 4 = 0 ∨ s.params.wordsPolicy = .truncate)
    (ha : ∀ r, i = .msgAppd r → s.msg.length + 32 ≤ s.params.msgCap) : issueCheck s i = none := by
  cases i with
  | dhWords r =>
    exact (issueCheck_dhWords_none s r).2 fun hp => (hw r rfl).resolve_right (by simp [hp])
  | msgAppd r => exact (issueCheck_msgAppd_none s r).2 (ha r rfl)
  | msgClear | dhBytes | dhParent | cvToint | cvFromint | cvCmpeq => rfl

end

/-- Settles O20: each premise picks one branch of `issue`, and a legal word's branch is its issue check's. -/
theorem issueMakesItsChecksInOrder : Obligations.IssueMakesItsChecksInOrder := by
  intro s w
  refine ⟨State.issue_of_busy w, fun _ => State.issue_of_illegal, fun rd hi hd hm hp => ?_, fun r hi hd ho => ?_,
    fun i hi hd hw ha => ?_⟩
  · rw [State.issue_of_legal hi hd, issueCheck_dhWords_of_misaligned rd hm hp, Option.elim_some]
  · rw [State.issue_of_legal hi hd, issueCheck_msgAppd_of_overflow r ho, Option.elim_some]
  · rw [State.issue_of_legal hi hd, issueCheck_eq_none hw ha, Option.elim_none]
    rfl

/-- The effect of a write that raises no error (20_memory.md R75; 60_exceptions.md R254, step 5). A write to the
targets that give `s` always raises one, CTRL apart. -/
def State.acceptWrite (s : State) (v : Word) : Target → State
  | .cmd => { s with inflight := (decode v).toOption }
  | .msgPush8 => s.appendMsg [v.extractLsb' 0 8]
  | .msgPush32 => s.appendMsg (wordBytes v)
  | .dr i j => s.writeDigestWord i j v
  | .ir k => s.writeLimb k v
  | .id | .ctrl | .status | .msgLen | .msgCap | .unmapped => s

section

variable {s : State} {t : Target} {v : Word}

@[simp] theorem State.acceptWrite_err : (s.acceptWrite v t).err = s.err := by cases t <;> rfl

@[simp] theorem State.acceptWrite_errcode : (s.acceptWrite v t).errcode = s.errcode := by cases t <;> rfl

theorem writeError_of_rejects (hr : t.rejectsWrite = true) : writeError s t v = some .badAccess := if_pos hr

theorem writeError_of_busy (hr : t.rejectsWrite = false) (hc : t ≠ .ctrl) (hi : s.inflight ≠ none) :
    writeError s t v = some .busy := by
  simp [writeError, hr, hc, hi]

theorem writeError_cmd_illegal {e : DecodeError} (hi : s.inflight = none) (hd : decode v = .error e) :
    writeError s .cmd v = some .illegalCmd := by
  simp [writeError, Target.rejectsWrite, hi, hd]

theorem writeError_cmd_legal {i : Instr} (hi : s.inflight = none) (hd : decode v = .ok i) :
    writeError s .cmd v = issueCheck s i := by
  rw [(decodeAndEncodeAgree v i).1 hd, writeError_cmd_encode i hi]

theorem writeError_msgPush8 (v : Word) (hi : s.inflight = none) : writeError s .msgPush8 v =
    if s.params.msgCap < s.msg.length + 1 then some .msgOverflow else none := by
  simp [writeError, Target.rejectsWrite, hi]

theorem writeError_msgPush32 (v : Word) (hi : s.inflight = none) : writeError s .msgPush32 v =
    if s.params.msgCap < s.msg.length + 4 then some .msgOverflow else none := by
  simp [writeError, Target.rejectsWrite, hi]

/-- A push goes by its capacity check alone (41_message_input.md R162). -/
theorem State.pushBytes_eq_elim (s : State) (bytes : List Byte) : s.pushBytes bytes =
    (if s.params.msgCap < s.msg.length + bytes.length then some ErrorCode.msgOverflow else none).elim
      (s.appendMsg bytes) s.raiseError := by
  split
  · next ho => exact State.pushBytes_of_overflow ho
  · next hf => exact State.pushBytes_of_fits (Nat.not_lt.1 hf)

/-- The issue of a word goes by the error that `writeError` finds (60_exceptions.md R254). -/
theorem State.issue_eq_elim (v : Word) (hi : s.inflight = none) :
    s.issue v = (writeError s .cmd v).elim (s.acceptWrite v .cmd) s.raiseError := by
  cases hd : decode v with
  | error e => rw [State.issue_of_illegal hi hd, writeError_cmd_illegal hi hd, Option.elim_some]
  | ok i =>
    have hl : s.acceptWrite v .cmd = s.latch i := by simp [State.acceptWrite, State.latch, hd, Except.toOption]
    rw [State.issue_of_legal hi hd, writeError_cmd_legal hi hd, hl]

/-- A write other than to CTRL raises the error that its checks find, and nothing else; or it finds none and is
performed (60_exceptions.md R253 to R255). -/
theorem State.writeTarget_eq_elim (v : Word) (hc : t ≠ .ctrl) :
    s.writeTarget t v = (writeError s t v).elim (s.acceptWrite v t) s.raiseError := by
  cases hr : t.rejectsWrite with
  | true => rw [State.writeTarget_of_rejects v hr, writeError_of_rejects hr, Option.elim_some]
  | false =>
    by_cases hi : s.inflight = none
    · rw [State.writeTarget_of_idle v hr hc hi]
      cases t with
      | id | status | msgLen | msgCap | unmapped => cases hr
      | ctrl => exact absurd rfl hc
      | cmd => exact State.issue_eq_elim v hi
      | msgPush8 => rw [writeError_msgPush8 v hi]; exact s.pushBytes_eq_elim _
      | msgPush32 => rw [writeError_msgPush32 v hi]; exact s.pushBytes_eq_elim _
      | dr i j | ir k => simp [writeError, Target.rejectsWrite, hi, State.acceptWrite, State.idleWrite]
    · rw [State.writeTarget_of_busy v hr hc hi, writeError_of_busy hr hc hi, Option.elim_some]

theorem State.writeTarget_of_no_error (hn : writeError s t v = none) (hc : t ≠ .ctrl) :
    s.writeTarget t v = s.acceptWrite v t := by
  rw [State.writeTarget_eq_elim v hc, hn, Option.elim_none]

/-- A CTRL write raises no error (10_state.md R36). -/
theorem writeError_ctrl (s : State) (v : Word) : writeError s .ctrl v = none := rfl

theorem State.writeTarget_of_error {c : ErrorCode} (he : writeError s t v = some c) :
    s.writeTarget t v = s.raiseError c := by
  have hc : t ≠ .ctrl := by
    rintro rfl
    simp [writeError_ctrl] at he
  rw [State.writeTarget_eq_elim v hc, he, Option.elim_some]

end

/-- Settles O18: the two cases of `raiseError`, and a write that raises an error has no other effect. -/
theorem raiseErrorKeepsTheFirst : Obligations.RaiseErrorKeepsTheFirst := by
  intro s c
  exact ⟨fun he => if_neg (Bool.eq_false_iff.1 he), fun he => if_pos he, fun _ _ => State.writeTarget_of_error⟩

/-- With a command in flight every write but to CTRL raises an error (60_exceptions.md R255, R288). -/
theorem State.writeTarget_of_inflight {s : State} {t : Target} (v : Word) (hi : s.inflight ≠ none)
    (hc : t ≠ .ctrl) : s.writeTarget t v = s.raiseError (if t.rejectsWrite then .badAccess else .busy) := by
  cases hr : t.rejectsWrite with
  | true => exact State.writeTarget_of_rejects v hr
  | false => exact State.writeTarget_of_busy v hr hc hi

/-- Settles O19: a write raises the error that its checks find or is performed, and an accepted write's effect is not
on the error fields. -/
theorem writesReportTheFirstErrorOnly : Obligations.WritesReportTheFirstErrorOnly := by
  refine ⟨⟨rfl, rfl, rfl, rfl, rfl⟩, fun s t v => ⟨fun c he => ?_, fun hn hc => ?_, fun hi hc => ?_⟩⟩
  · rw [State.writeTarget_of_error he]
    exact ⟨s.raiseError_err c, by cases c <;> exact s.raiseError_errcode _⟩
  · rw [State.writeTarget_of_no_error hn hc]
    exact ⟨State.acceptWrite_err, State.acceptWrite_errcode⟩
  · rw [State.writeTarget_of_inflight v hi hc, s.raiseError_keeps_first]
    cases t.rejectsWrite <;> rfl

/-- `s` with the error of code `c` recorded. -/
def State.recordError (s : State) (c : BitVec 4) : State := { s with err := true, errcode := c }

section

variable (s : State) (c : BitVec 4) (t : Target) (v : Word)

theorem State.recordError_of_err {s : State} (he : s.err = true) : s.recordError s.errcode = s := by
  rw [State.recordError, ← he]

theorem State.raiseError_recordError (d : ErrorCode) :
    (s.recordError c).raiseError d = (s.raiseError d).recordError c := by
  rw [s.raiseError_keeps_first]
  rfl

theorem writeError_recordError : writeError (s.recordError c) t v = writeError s t v := rfl

theorem State.acceptWrite_recordError :
    (s.recordError c).acceptWrite v t = (s.acceptWrite v t).recordError c := by
  cases t <;> rfl

variable {t}

/-- No check and no effect of a write other than to CTRL reads the error fields (60_exceptions.md R256). -/
theorem State.writeTarget_recordError (hc : t ≠ .ctrl) :
    (s.recordError c).writeTarget t v = (s.writeTarget t v).recordError c := by
  rw [State.writeTarget_eq_elim v hc, State.writeTarget_eq_elim v hc, writeError_recordError]
  cases writeError s t v with
  | none => exact s.acceptWrite_recordError c t v
  | some d => exact s.raiseError_recordError c d

/-- The CTRL action reads the error fields for no other field. -/
theorem State.ctrlAction_recordError :
    ((s.recordError c).ctrlAction v).clearErrors = (s.ctrlAction v).clearErrors := by
  unfold State.ctrlAction
  split
  · rfl
  · split <;> rfl

/-- A recorded error outlasts every write other than to CTRL, with its code (60_exceptions.md R252). -/
theorem State.writeTarget_keeps_recorded {s : State} (he : s.err = true) (hc : t ≠ .ctrl) :
    (s.writeTarget t v).err = true ∧ (s.writeTarget t v).errcode = s.errcode := by
  rw [← State.recordError_of_err he, s.writeTarget_recordError s.errcode v hc]
  exact ⟨rfl, rfl⟩

end

/-- Settles O21: the error fields are read by no write's checks and by no completion. The model's soft reset leaves T
as it is (log 4). -/
theorem recordedErrorBlocksNothing : Obligations.RecordedErrorBlocksNothing := by
  intro s c
  refine ⟨fun _ v hc => s.writeTarget_recordError c v hc, fun v => ⟨s.t, ?_⟩,
    fun i => (unread_errors true c).exec i s⟩
  exact congrArg (State.writeT · s.t) (s.ctrlAction_recordError c v)

/-- A step that is no CTRL write with bit 0 or bit 1 set keeps a recorded error (60_exceptions.md R257). -/
theorem step_keeps_recorded {s s' : State} (h : step s = .next s') (he : s.err = true)
    (hn : ∀ v, s.hostWrites .ctrl v → v.getLsbD 0 = false ∧ v.getLsbD 1 = false) :
    s'.err = true ∧ s'.errcode = s.errcode := by
  obtain ⟨i, _, rfl⟩ | ⟨q, v, hw, rfl⟩ | ⟨_, _, _, rfl⟩ := step_block_cases h
  · exact ⟨(s.popTurn.completed_err i).trans he, s.popTurn.completed_errcode i⟩
  · by_cases hq : q = .ctrl
    · subst hq
      obtain ⟨h0, h1⟩ := hn v hw
      rw [State.writeTarget_ctrl, State.ctrlAction_of_no_bit _ h0 h1]
      exact ⟨he, rfl⟩
    · exact State.writeTarget_keeps_recorded (s := s.popTurn.popPort) v he hq
  · exact ⟨he, rfl⟩

/-- Settles O22: a completion, a write other than to CTRL and a CTRL write with neither bit set keep a recorded
error. -/
theorem errorsAreClearedOnlyByCtrlOrReset : Obligations.ErrorsAreClearedOnlyByCtrlOrReset := by
  refine ⟨fun s s' h he hne => ?_, fun s v h0 h1 => ?_, fun s v h0 => ?_, fun _ _ _ _ => ⟨rfl, rfl⟩⟩
  · by_contra hno
    obtain ⟨herr, hcode⟩ := step_keeps_recorded h he fun v hw => by simpa using fun hb => hno ⟨v, hw, hb⟩
    simp [herr, hcode] at hne
  · rw [s.writeTarget_ctrl, s.ctrlAction_of_bit1 h0 h1]
    exact ⟨rfl, rfl, rfl⟩
  · rw [s.writeTarget_ctrl, s.ctrlAction_of_bit0 h0]
    exact ⟨rfl, rfl⟩

end Sys2Proof.Machine
end

section
/-! The completion step (70_reset_and_hazards.md R286) is exec of the command in flight, latched by the host's issue or
taken from a word by `withFetchWord` (log 10). -/

namespace Sys2Proof.Machine

/-- A command word read with the opcode table's numbering of bits is the word itself (30_encoding.md R106). -/
theorem decodeTableWord_toNat (w : Word) : decodeTableWord 32 w.toNat = (decode w).toOption := by
  have hmod : w.toNat % 2 ^ 32 = w.toNat := Nat.mod_eq_of_lt w.isLt
  simp only [decodeTableWord, hmod, w.isLt, if_true, BitVec.ofNat_toNat, BitVec.setWidth_eq]

theorem State.withFetchWord_of_decode (s : State) {w : Word} {i : Instr} (hd : decode w = .ok i) :
    s.withFetchWord 32 w.toNat = { s.latch i with turns := .engine :: s.turns } := by
  simp [State.withFetchWord, decodeTableWord_toNat, hd, Except.toOption, State.latch]

/-- Settles O5: a word that decodes stands in INFLIGHT on the engine's turn, and the turn is used up. -/
theorem stepCompletesTheCommandInFlight : Obligations.StepCompletesTheCommandInFlight := by
  refine ⟨fun _ _ => step_of_completes, fun s w i hwf hd => ?_⟩
  rw [s.withFetchWord_of_decode hd]
  exact step_of_completes (s := { s.latch i with turns := .engine :: s.turns }) hwf ⟨rfl, rfl⟩

end Sys2Proof.Machine
end

section
/-! What a step does to the host's side: it uses up one turn and at most one access (20_memory.md R79; log 6). -/

namespace Sys2Proof.Machine

section

variable {s t : State}

/-- A write acts on the block, not on the host's side of the port. -/
theorem State.writeTarget_host (s : State) (q : Target) (v : Word) :
    (s.writeTarget q v).port = s.port ∧ (s.writeTarget q v).turns = s.turns := by
  by_cases hc : q = .ctrl
  · subst hc
    rw [s.writeTarget_ctrl, State.ctrlAction]
    split
    · exact ⟨rfl, rfl⟩
    · split <;> exact ⟨rfl, rfl⟩
  · rw [State.writeTarget_eq_elim v hc]
    cases writeError s q v with
    | none => cases q <;> exact ⟨rfl, rfl⟩
    | some c => exact ⟨s.raiseError_port c, s.raiseError_turns c⟩

theorem hostTurn_next_host (h : hostTurn s = .next t) : t.port <:+ s.port ∧ t.turns = s.turns := by
  obtain ⟨_, rfl⟩ | ⟨_, _, _, _, v, _, _, _, rfl⟩ | ⟨_, _, v, _, off, _, _, rfl⟩ | ⟨_, _, rfl⟩ :=
    hostTurn_next_cases h
  · exact ⟨List.suffix_rfl, rfl⟩
  · exact ⟨List.tail_suffix _, rfl⟩
  · obtain ⟨hp, ht⟩ := s.popPort.writeTarget_host (targetOf off) v
    rw [hp, ht]
    exact ⟨List.tail_suffix _, rfl⟩
  · split
    · exact ⟨List.suffix_rfl, rfl⟩
    · exact ⟨List.tail_suffix _, rfl⟩

theorem step_next_host (h : step s = .next t) : t.port <:+ s.port ∧ t.turns = s.turns.tail := by
  obtain ⟨_, ⟨i, _, he⟩ | ⟨_, _, rfl⟩ | ⟨_, ht⟩⟩ := step_next_cases h
  · obtain ⟨_, rfl⟩ := exec_next_iff.1 he
    obtain ⟨_, hp, ht⟩ := s.popTurn.completed_host i
    rw [hp, ht]
    exact ⟨List.suffix_rfl, rfl⟩
  · exact ⟨List.suffix_rfl, rfl⟩
  · exact hostTurn_next_host ht

end

end Sys2Proof.Machine
end

section
/-! Every issued command completes or is abandoned (70_reset_and_hazards.md R287). -/

namespace Sys2Proof.Machine

section

variable {s : State} {i : Instr}

/-- A host's turn with a command in flight, if it is no soft reset: a fault of its access, or one turn less with the
command still in flight. -/
theorem step_of_host_inflight (hwf : s.params.wf = true) (hi : s.inflight = some i) (hm : s.mover = .host)
    (hn : ¬ s.softResets) :
    (step s = .fault .badBusAccess ∨ step s = .fault .unwrittenRead) ∨
      ∃ t, step s = .next t ∧ t.params.wf = true ∧ t.inflight = some i ∧ t.turns = s.turns.tail := by
  cases h : step s with
  | refused r => exact absurd hwf ((step_refused_iff s).1 ⟨r, h⟩)
  | fault f =>
    left
    obtain ⟨_, rfl | rfl⟩ | ⟨he, _⟩ := step_fault_kinds h
    · exact .inl rfl
    · exact .inr rfl
    · rw [hm] at he; cases he
  | next t =>
    right
    obtain ⟨_, ht⟩ := step_next_host h
    obtain ⟨_, _, _, _, _, rfl⟩ := step_of_host_differs hi hm hn h
    exact ⟨_, rfl, hwf, hi, ht⟩

end

/-- Settles O50, by induction on the turns: with none left, or on its own turn, the engine is at the completion; a
host's turn resets, stops at a fault or uses up one turn. -/
theorem issuedCommandCompletesOrIsAbandoned : Obligations.IssuedCommandCompletesOrIsAbandoned := by
  intro s i hwf hi
  induction hts : s.turns generalizing s with
  | nil => exact ⟨0, Nat.le_refl _, .inl ⟨s, rfl, .inl (State.completes_of_inflight hi hts)⟩⟩
  | cons a rest ih =>
    have hm : s.mover = a := by rw [State.mover, hts]
    cases a with
    | engine => exact ⟨0, Nat.zero_le _, .inl ⟨s, rfl, .inl ⟨hm, hi⟩⟩⟩
    | host =>
      by_cases hr : s.softResets
      · exact ⟨0, Nat.zero_le _, .inl ⟨s, rfl, .inr hr⟩⟩
      · obtain hf | ⟨t, hst, hwf', hi', ht⟩ := step_of_host_inflight hwf hi hm hr
        · exact ⟨1, Nat.succ_pos _, .inr (hf.imp (run_of_fault 0) (run_of_fault 0))⟩
        · obtain ⟨k, hk, hrun⟩ := ih t hwf' hi' (by rw [ht, hts, List.tail_cons])
          exact ⟨k + 1, Nat.succ_le_succ hk, by rwa [run_succ_of_step hst]⟩

end Sys2Proof.Machine
end

section
/-! The end of a run (70_reset_and_hazards.md R291). -/

namespace Sys2Proof.Machine

section

variable {s t u : State}

theorem State.quiescent_iff : s.quiescent = true ↔ s.inflight = none := by
  rw [State.quiescent, Bool.not_eq_true', s.not_busy_iff]

/-- STATUS is read by an access at its offset or by a turn of `wait` (log 8). -/
theorem State.readsStatus_iff : s.readsStatus = true ↔ s.mover = .host ∧
    ((∃ rest, s.port = .wait :: rest) ∨ ∃ rest, s.port = .read (s.params.base + 8) 4 :: rest) := by
  rw [State.readsStatus, Bool.and_eq_true, decide_eq_true_iff]
  refine and_congr_right fun _ => ?_
  cases hp : s.port with
  | nil => simp
  | cons op rest =>
    cases op with
    | read addr bytes => simp [offsetOf, busOffset_eq_some, and_comm]
    | write addr bytes v => simp
    | wait => simp

/-- No write of the program is left (70_reset_and_hazards.md R291). -/
def State.NoWriteLeft (s : State) : Prop := ∀ addr bytes v, HostOp.write addr bytes v ∉ s.port

theorem State.noWriteLeft_iff : (s.port.all fun op => !op.isWrite) = true ↔ s.NoWriteLeft := by
  rw [List.all_eq_true]
  constructor
  · intro h addr bytes v hw
    cases h _ hw
  · intro h op ho
    cases op with
    | read | wait => rfl
    | write addr bytes v => exact absurd ho (h addr bytes v)

theorem State.runEnd_eq_some_iff : s.runEnd = some t ↔
    step s = .next t ∧ s.readsStatus = true ∧ s.quiescent = true ∧ t.NoWriteLeft := by
  unfold State.runEnd
  cases h : step s with
  | fault f => simp
  | refused r => simp
  | next v =>
    simp only [Option.ite_none_right_eq_some, Bool.and_eq_true, State.noWriteLeft_iff, Option.some.injEq,
      Host.Outcome.next.injEq]
    constructor
    · rintro ⟨⟨⟨hr, hq⟩, hw⟩, rfl⟩
      exact ⟨rfl, hr, hq, hw⟩
    · rintro ⟨rfl, hr, hq, hw⟩
      exact ⟨⟨⟨hr, hq⟩, hw⟩, rfl⟩

/-- With nothing in flight and no write in the host's next access a step moves the host's side of the port only. -/
theorem step_of_idle_no_write (h : step s = .next t) (hi : s.inflight = none)
    (hw : ∀ addr bytes v rest, s.port ≠ .write addr bytes v :: rest) :
    ∃ p q r, t = { s with port := p, turns := q, returned := r } := by
  obtain ⟨i, ⟨_, hs⟩, _⟩ | ⟨_, v, ⟨_, addr, bytes, rest, _, hp, _⟩, _⟩ | hside := step_block_cases h
  · rw [hi] at hs; cases hs
  · exact absurd hp (hw addr bytes v rest)
  · exact hside

theorem State.NoWriteLeft.port_ne (hw : s.NoWriteLeft) (addr bytes : Nat) (v : Word) (rest : List HostOp) :
    s.port ≠ .write addr bytes v :: rest :=
  fun hp => hw addr bytes v (hp ▸ List.mem_cons_self)

theorem State.NoWriteLeft.of_step (hw : s.NoWriteLeft) (h : step s = .next t) : t.NoWriteLeft :=
  fun addr bytes v hm => hw addr bytes v ((step_next_host h).1.subset hm)

/-- Once nothing is in flight and no write is left, no further step changes the block. -/
theorem run_of_idle_no_write {k : Nat} (h : run k s = .next u) (hi : s.inflight = none) (hw : s.NoWriteLeft) :
    u = { s with port := u.port, turns := u.turns, returned := u.returned } := by
  induction k generalizing s with
  | zero =>
    cases h
    rfl
  | succ k ih =>
    obtain ⟨t, ht, hu⟩ := run_succ_next h
    have hwt := hw.of_step ht
    obtain ⟨_, _, _, rfl⟩ := step_of_idle_no_write ht hi hw.port_ne
    exact (ih hu hi hwt :)

end

/-- Settles O51: the end's conditions are those of `runEnd`, read off one by one; the STATUS read leaves nothing in
flight, and from there no step has a completion or a write to do. -/
theorem runEndsAtAnIdleStatusReadAfterTheLastWrite : Obligations.RunEndsAtAnIdleStatusReadAfterTheLastWrite := by
  constructor
  · intro s t
    rw [State.runEnd_eq_some_iff, State.readsStatus_iff, State.quiescent_iff, State.NoWriteLeft]
    tauto
  · intro s t u k hend hrun
    obtain ⟨hs, hr, hq, hw⟩ := State.runEnd_eq_some_iff.1 hend
    have hi := State.quiescent_iff.1 hq
    obtain ⟨_, hp⟩ := State.readsStatus_iff.1 hr
    have hread : ∀ addr bytes v rest, s.port ≠ .write addr bytes v :: rest := by
      intro _ _ _ _ hwrite
      obtain ⟨_, hp⟩ | ⟨_, hp⟩ := hp <;> simp [hp] at hwrite
    have hit : t.inflight = none := by
      obtain ⟨_, _, _, rfl⟩ := step_of_idle_no_write hs hi hread
      exact hi
    exact ⟨hit, run_of_idle_no_write hrun hit hw⟩

end Sys2Proof.Machine
end

section
/-! Reads while a command is in flight (70_reset_and_hazards.md R289). -/

namespace Sys2Proof.Machine

section

variable {s : State} {addr bytes off : Nat} {rest : List HostOp}

/-- The host's turn on a read goes on with the register's value. -/
theorem hostTurn_of_read_at (hp : s.port = .read addr bytes :: rest)
    (ho : busOffset s.params addr bytes = some off) :
    hostTurn s = withOperand (s.readTarget (targetOf off)) fun v => .next (s.popPort.deliver v) := by
  have hr : s.popPort.readTarget (targetOf off) = s.readTarget (targetOf off) :=
    State.readTarget_congr rfl rfl rfl rfl rfl rfl rfl rfl rfl rfl _
  simp only [hostTurn, hp, hostRead, State.popPort_params, ho, hr]

end

/-- Which accesses are left is not read by a completion. -/
theorem unread_popPort : Unread State.popPort := by
  constructor <;> intros <;> rfl

/-- A completion commutes with the delivery of a read's value. -/
theorem exec_popPort_deliver {i : Instr} {s u : State} (v : Word) (h : exec i s = .next u) :
    exec i (s.popPort.deliver v) = .next (u.popPort.deliver v) := by
  rw [(unread_returned v).exec, unread_popPort.exec, h]
  rfl

/-- Settles O52: the completion does not change what the register reads as, and does not see the read. -/
theorem safeReadCommutesWithCompletion : Obligations.SafeReadCommutesWithCompletion := by
  intro s u i addr off rest _ hp ho hq he
  obtain ⟨_, rfl⟩ := exec_next_iff.1 he
  obtain ⟨hparams, hport, _⟩ := s.completed_host i
  have hbefore := hostTurn_of_read_at hp ho
  have hafter := hostTurn_of_read_at (hport.trans hp) (hparams ▸ ho)
  rw [s.completed_readTarget i hq] at hafter
  cases hv : s.readTarget (targetOf off) with
  | error f =>
    rw [hv, withOperand_error] at hbefore hafter
    exact .inl ⟨f, hbefore, hafter⟩
  | ok v =>
    rw [hv, withOperand_ok] at hbefore hafter
    exact .inr ⟨_, _, hbefore, hafter, exec_popPort_deliver v he⟩

end Sys2Proof.Machine
end
